-- ==== Sys2Proof/Word.lean ====
section
/-! DEFINITION. The word types of VSID (R7, R80, R5, R82): every quantity is an unsigned integer of a stated width. -/

namespace Sys2Proof

/-- The 32-bit command word (R80). -/
abbrev Word := BitVec 32

/-- A 32-bit bus address (R5, R29). -/
abbrev Addr := BitVec 32

/-- A halfword: a sample, a raw keypad value, a response (R50, R88). -/
abbrev Half := BitVec 16

/-- The 8-bit unit of the bus address space (R29). -/
abbrev Byte := BitVec 8

/-- A 10-bit InputMask, bit 0 = A up to bit 9 = L, always 1 = pressed (R28). -/
abbrev Mask10 := BitVec 10

end Sys2Proof
end

