-- ==== Sys2Proof/Syntax.lean ====
section
/-! DEFINITION. The command set (R83): one constructor per row of spec/opcode_table.json. -/

namespace Sys2Proof

/-- VSID command set 1.0 (R1, R83). Only `ISPRESSED` has operands, and each is a whole 10-bit field of the command
word (R81, R82), so the field types admit exactly the operand values the encoding admits. -/
inductive Instr where
  /-- `waitForBlank()`, R100. -/
  | waitblank
  /-- `waitForDraw()`, R101. -/
  | waitdraw
  /-- `sync.wait()`, R102. -/
  | sync
  /-- `readInputMask()`, R120. -/
  | readkeys
  /-- `isPressed(mask, button)`, R121: `A` is `mask`, `B` is `button`. -/
  | ispressed (mask button : Mask10)
deriving DecidableEq, Repr

end Sys2Proof
end

