-- ==== Sys2Proof/Assembly.lean ====
section
/-! DEFINITION. One line of VSID assembly as a term (R86, R87): the ten button names, the operand spellings, the five
commands and the three pseudo-instructions. Its check is in WellFormed.lean, its meaning in Machine/Assembler.lean. -/

namespace Sys2Proof

/-- The ten named buttons, in the order the spec lists them (R27, R28). -/
inductive Button where
  | a | b | select | start | right | left | up | down | r | l
deriving DecidableEq, Repr

/-- An operand of `ISPRESSED` as it is written (R86): a number, or `KEY_*` names joined by `|`. -/
inductive Operand where
  | num (n : Nat)
  | names (bs : List Button)
deriving DecidableEq, Repr

/-- One line of assembly: nothing but a comment, a command of R86, or a pseudo-instruction of R87. -/
inductive AsmLine where
  | blank
  | waitblank
  | waitdraw
  | sync
  | readkeys
  | ispressed (mask button : Operand)
  | tick
  | vsync2
  | held (name : Button)
deriving DecidableEq, Repr

end Sys2Proof
end

