-- ==== Sys2Proof/Config.lean ====
section
/-! DEFINITION. What is fixed for one machine (R5), the reasons a configuration is refused (R141), and the moves of
the five agents with the one free value of the model: which agent moves when no schedule is given (R9). -/

namespace Sys2Proof

/-- The configuration record of R5. None of its fields is a register and no step writes one.
`timingMapped` and `keypadMapped` say whether the platform maps a register at the two addresses (R66). -/
structure Config where
  /-- `TIMING_ADDR`, D9. -/
  timingAddr : Addr
  /-- `KEYPAD_ADDR`, D10. -/
  keypadAddr : Addr
  /-- `BLANK_THRESHOLD`, written `N`, D11. -/
  blankThreshold : Half
  /-- `LINES`, the period of the display-timing counter, an integer of `2 .. 65536`, D12. -/
  lines : Nat
  /-- `KEY_ACTIVE_LOW`, D14. -/
  keyActiveLow : Bool
  timingMapped : Bool
  keypadMapped : Bool
deriving DecidableEq, Repr

/-- The default parameters of R5, on a platform that maps both registers. PRESUMED values (log entry 2): the spec
marks each of them as general knowledge of the Game Boy Advance. -/
def Config.default : Config where
  timingAddr := 0x04000006#32
  keypadAddr := 0x04000130#32
  blankThreshold := 160#16
  lines := 228
  keyActiveLow := true
  timingMapped := true
  keypadMapped := true

/-- The reasons of `ConfigRefused`, code 2 of R141, in the order R141 lists them. -/
inductive ConfigReason where
  | timingMisaligned
  | keypadMisaligned
  | sameAddress
  | linesOutOfRange
  | thresholdOutOfRange
  | unmapped
deriving DecidableEq, Repr

/-- One move of one agent of R9. A schedule is a list of moves. -/
inductive Move where
  /-- The block moves on its own: an idle block takes `Accept` (R89); one that has to read raises `bus_req` (R64). -/
  | block
  /-- `bus_ack = 1` with the register's value on `bus_rdata` (R32): the block's `Poll` or `KeyRead`, which at port level
  is enabled when the bus acknowledges (R64, R103). -/
  | ack
  /-- The client decides on one more command word, to be offered after those it already holds (R9). -/
  | offer (w : Word)
  /-- The Display's `Advance` (R147). -/
  | advance
  /-- The Keypad's `Change(v)`, `v` any 16-bit value (R148). -/
  | change (v : Half)
  /-- `rst` at a rising edge, or power-on (R160). -/
  | reset
deriving DecidableEq, Repr, Inhabited

/-- FREE VALUE (log entry 4). Which move comes next once the given schedule is used up: "any enabled agent may take
the next step, in any order" (R9). It has no body, so nothing can be proved of it. -/
opaque Config.freeMove : Nat → Move

end Sys2Proof
end

