-- ==== Sys2Proof/WellFormed.lean ====
section
/-! DEFINITION. What is well formed: a configuration (R6, R66), an assembly operand and an assembly line (R86).
An `Instr` needs no check of its own: its two operands have the type of the encoding's 10-bit fields (R81, R82), so
every term of `Instr` is well formed and has a command word. -/

namespace Sys2Proof

/-- A valid configuration, condition by condition as R6 writes them, on a platform that maps both registers (R66). -/
def Config.valid (c : Config) : Bool :=
  c.timingAddr.getLsbD 0 == false
    && c.keypadAddr.getLsbD 0 == false
    && c.timingAddr != c.keypadAddr
    && decide (2 ≤ c.lines ∧ c.lines ≤ 65536)
    && decide (1 ≤ c.blankThreshold.toNat ∧ c.blankThreshold.toNat ≤ c.lines - 1)
    && c.timingMapped
    && c.keypadMapped

/-- A number is an operand when it fits 10 bits; a list of names holds at least one name (R86). -/
def Operand.wellFormed : Operand → Bool
  | .num n => decide (n < 1024)
  | .names bs => !bs.isEmpty

/-- Only `ISPRESSED` has operands to check (R86). -/
def AsmLine.wellFormed : AsmLine → Bool
  | .blank => true
  | .waitblank => true
  | .waitdraw => true
  | .sync => true
  | .readkeys => true
  | .ispressed m b => m.wellFormed && b.wellFormed
  | .tick => true
  | .vsync2 => true
  | .held _ => true

end Sys2Proof
end

