-- ==== Sys2Proof/Decode.lean ====
section
/-! DEFINITION. The decoder of 32-bit command words (R80 to R85), total, refusing by name, and the encoder after it. -/

namespace Sys2Proof

/-- Why a word is illegal, in the order R84 lists the cases. All of them lead to one `IllegalCommand(w)`, so the order
is not observable (R143 d). -/
inductive Illegal where
  /-- `OP` in `0x0, 0x6 .. 0xF`. -/
  | reservedOp
  /-- `Z1 != 0`. -/
  | z1NotZero
  /-- `Z2 != 0`. -/
  | z2NotZero
  /-- `OP` in `0x1 .. 0x4` with `A != 0` or `B != 0`. -/
  | operandNotZero
deriving DecidableEq, Repr

/-- `OP = cmd_word[31:28]` (R81). -/
def fieldOp (w : Word) : BitVec 4 := w.extractLsb' 28 4

/-- `Z1 = cmd_word[27:26]` (R81). -/
def fieldZ1 (w : Word) : BitVec 2 := w.extractLsb' 26 2

/-- `A = cmd_word[25:16]` (R81, R82). -/
def fieldA (w : Word) : Mask10 := w.extractLsb' 16 10

/-- `Z2 = cmd_word[15:10]` (R81). -/
def fieldZ2 (w : Word) : BitVec 6 := w.extractLsb' 10 6

/-- `B = cmd_word[9:0]` (R81, R82). -/
def fieldB (w : Word) : Mask10 := w.extractLsb' 0 10

/-- The name of what is wrong with a word that no row of R83 matches (R84). -/
def illegalReason (w : Word) : Illegal :=
  if fieldOp w = 0 ∨ 6 ≤ (fieldOp w).toNat then .reservedOp
  else if fieldZ1 w ≠ 0 then .z1NotZero
  else if fieldZ2 w ≠ 0 then .z2NotZero
  else .operandNotZero

/-- Decoding by the match and mask pairs of R83. A word that matches no row is illegal (R84). -/
def decode (w : Word) : Except Illegal Instr :=
  if w &&& 0xFFFFFFFF#32 = 0x10000000#32 then .ok .waitblank
  else if w &&& 0xFFFFFFFF#32 = 0x20000000#32 then .ok .waitdraw
  else if w &&& 0xFFFFFFFF#32 = 0x30000000#32 then .ok .sync
  else if w &&& 0xFFFFFFFF#32 = 0x40000000#32 then .ok .readkeys
  else if w &&& 0xFC00FC00#32 = 0x50000000#32 then .ok (.ispressed (fieldA w) (fieldB w))
  else .error (illegalReason w)

/-- Whether a word matches a row of R83. -/
def legalWord (w : Word) : Bool :=
  match decode w with
  | .ok _ => true
  | .error _ => false

/-- Format `CW` with `Z1 = Z2 = 0` (R81), put together as R86 and R121 write it: `OP << 28 | A << 16 | B`. -/
def commandWord (op : BitVec 4) (a b : Mask10) : Word :=
  op.setWidth 32 <<< 28 ||| a.setWidth 32 <<< 16 ||| b.setWidth 32

/-- The command word of an instruction, from the `OP` column of R83. -/
def encode : Instr → Word
  | .waitblank => commandWord 0x1#4 0#10 0#10
  | .waitdraw => commandWord 0x2#4 0#10 0#10
  | .sync => commandWord 0x3#4 0#10 0#10
  | .readkeys => commandWord 0x4#4 0#10 0#10
  | .ispressed mask button => commandWord 0x5#4 mask button

/-- The instruction the decoder reads from the `nbits` low bits of `w`, numbered as spec/opcode_table.json numbers
them. A command is one 32-bit parallel value (R80, R85), so there is no byte order to undo. -/
def decodeTableWord (nbits w : Nat) : Option Instr :=
  match decode (BitVec.ofNat 32 (w % 2 ^ nbits)) with
  | .ok i => some i
  | .error _ => none

end Sys2Proof
end

