-- ==== Sys2Proof/Machine/Flags.lean ====
section
/-! DEFINITION. The comparisons of the block (R104, R123). It has no condition codes: each result is used in the step
that computes it and left nowhere (R24). -/

namespace Sys2Proof.Machine

/-- `s >= N`, unsigned on all 16 bits: the sample is in the blanking region (R104). -/
def blanking (c : Config) (sample : Half) : Bool :=
  decide (c.blankThreshold.toNat ≤ sample.toNat)

/-- `s < N`, unsigned on all 16 bits: the sample is in the drawable region (R104). -/
def drawable (c : Config) (sample : Half) : Bool :=
  decide (sample.toNat < c.blankThreshold.toNat)

/-- `(A & B) != 0` (R121, R123). -/
def anyHeld (a b : Mask10) : Bool := a &&& b != 0#10

end Sys2Proof.Machine
end

