-- ==== Sys2Proof/Machine/Operands.lean ====
section
/-! DEFINITION. The operand forms of the command set (R82): two contiguous unsigned fields, used at 10 bits or
zero-extended to 16, and a Boolean at 16 bits (R7). There is no register, address or mode operand (R20, R51). -/

namespace Sys2Proof.Machine

/-- `zext_16` of a 10-bit operand or InputMask (R7, R28, R82). -/
def zextMask (m : Mask10) : Half := m.setWidth 16

/-- `zext_16` of a Boolean (R7). -/
def zextBool (b : Bool) : Half := if b then 1#16 else 0#16

end Sys2Proof.Machine
end

