-- ==== Sys2Proof/Machine/State.lean ====
section
/-! DEFINITION. The state of the machine: the block's four elements, the two device registers, the ports, the client's
command sequence, the schedule and the history (10_state.md), with the faults and refusals of R141. -/

namespace Sys2Proof.Machine

/-- The sequencer's four values (R21). -/
inductive Seq where
  | idle
  | pollBlank
  | pollDraw
  | readKey
deriving DecidableEq, Repr

/-- The source's two states (R23). -/
inductive Phase where
  | drawPhase
  | blankPhase
deriving DecidableEq, Repr

/-- The model's faults (R141). -/
inductive Fault where
  /-- Code 1, `IllegalCommand(w)`. Raised by `accept` on a word that matches no row of R83: that step answers a next
  state whose `FAULT` is set. `step` answers this fault when the block or the client is picked while `FAULT` is set
  (R24). Safe: the hardware does something unknown, and the model stops. -/
  | illegalCommand (w : Word)
deriving DecidableEq, Repr

/-- The model's refusals (R141). -/
inductive Refusal where
  /-- An instruction without a meaning. No arm of `exec` answers it. Safe. -/
  | notModelled (mnemonic : String)
  /-- Code 2, `ConfigRefused(reason)`. Answered by `step`, before any agent moves, of a configuration that fails R6 or
  has nothing mapped at one of its addresses (R66). Safe: nothing is said of such a machine. -/
  | configRefused (reason : ConfigReason)
deriving DecidableEq, Repr

/-- The events of the history (R31). -/
inductive Event where
  /-- `Cmd(w)`: a command word was accepted. -/
  | cmd (w : Word)
  /-- `Read(addr, value)`: a bus read was performed. -/
  | read (addr : Addr) (value : Half)
  /-- `Rsp(v)`: a response was emitted. -/
  | rsp (v : Half)
  /-- `Tick`. -/
  | tick
  /-- `Fault(kind, w)`. -/
  | fault (kind : Fault)
  /-- `Reset`. -/
  | reset
deriving DecidableEq, Repr

/-- The state. The configuration, the command sequence and the schedule are the parameters of the step relation (R9),
held here because a step takes nothing but a state (log entry 1). -/
@[ext]
structure State where
  /-- The configuration (R5); no step writes it. -/
  cfg : Config
  /-- `SEQ` (R21). -/
  seq : Seq
  /-- `CHAIN` (R22). -/
  chain : Bool
  /-- `PHASE` (R23). -/
  phase : Phase
  /-- `FAULT` (R24), with what the fault records (R141): the bit is 1 exactly when this is `some`. -/
  fault : Option Fault
  /-- Output `bus_req` (R32, R64). -/
  busReq : Bool
  /-- Outputs `rsp_valid` and `rsp_data` of the step just taken (R32, R88): `some v` is a pulse with data `v`. -/
  rsp : Option Half
  /-- Output `tick` of the step just taken (R32, R105). -/
  tick : Bool
  /-- `VCOUNT`, the display-timing counter, owned by the Display (R26). -/
  vcount : Half
  /-- `KEYRAW`, the keypad-state register, owned by the Keypad (R27). -/
  keyraw : Half
  /-- The command words the client will still offer, the one on `cmd_word` first (R9, R32). -/
  cmds : List Word
  /-- The moves that come next, first to last (R9). -/
  schedule : List Move
  /-- How many free moves have been drawn after the schedule ran out (the model's own, log entry 4). -/
  drawn : Nat
  /-- The history, oldest event first (R31). -/
  history : List Event
deriving DecidableEq, Repr

/-- The machine right after power-on (R33, R160): the block's elements and outputs at their reset values, an empty
history, no command offered and no schedule given. `VCOUNT` and `KEYRAW` have no reset value in the spec: 0 is
the model's DESIGN CHOICE (log entry 3). The configuration is the default one (log entry 2). -/
def State.reset : State where
  cfg := Config.default
  seq := .idle
  chain := false
  phase := .drawPhase
  fault := none
  busReq := false
  rsp := none
  tick := false
  vcount := 0#16
  keyraw := 0#16
  cmds := []
  schedule := []
  drawn := 0
  history := []

end Sys2Proof.Machine
end

