-- ==== Sys2Proof/Machine/Ops.lean ====
section
/-! DEFINITION. The named operations every step is made of: `S <- v` for each element, and the primitives `MemRead`,
`Respond`, `Tick`, `Complete` and `raise IllegalCommand` of R8; the byte view of the bus (R52) and the output ports that
are wires (R32). -/

namespace Sys2Proof.Machine

/-! ### `S <- v` (R8) -/

/-- `SEQ <- q`. -/
def State.setSeq (q : Seq) (s : State) : State := { s with seq := q }

/-- `CHAIN <- b`. -/
def State.setChain (b : Bool) (s : State) : State := { s with chain := b }

/-- `PHASE <- p`. -/
def State.setPhase (p : Phase) (s : State) : State := { s with phase := p }

/-- `FAULT <- 1` with its record, or `FAULT <- 0`. -/
def State.setFault (f : Option Fault) (s : State) : State := { s with fault := f }

/-- The level of `bus_req` (R64). -/
def State.setBusReq (b : Bool) (s : State) : State := { s with busReq := b }

/-- The pulse on the response port (R88). -/
def State.setRsp (r : Option Half) (s : State) : State := { s with rsp := r }

/-- The pulse on `tick` (R105). -/
def State.setTick (b : Bool) (s : State) : State := { s with tick := b }

/-- The Display's write of its register (R147). -/
def State.setVcount (v : Half) (s : State) : State := { s with vcount := v }

/-- The Keypad's write of its register (R148). -/
def State.setKeyraw (v : Half) (s : State) : State := { s with keyraw := v }

/-- The words the client will still offer (R9). -/
def State.setCmds (ws : List Word) (s : State) : State := { s with cmds := ws }

/-- The moves that come next (R9). -/
def State.setSchedule (ms : List Move) (s : State) : State := { s with schedule := ms }

/-- The count of free moves drawn (log entry 4). -/
def State.setDrawn (n : Nat) (s : State) : State := { s with drawn := n }

/-- Append one event to the history (R31). -/
def State.log (e : Event) (s : State) : State := { s with history := s.history ++ [e] }

/-- A pulse lasts one cycle (R32): a step begins with both pulses down. -/
def State.dropPulses (s : State) : State := (s.setRsp none).setTick false

/-! ### The bus (R50 to R66) -/

/-- The two registers the block can read; the one bit a request holds (R30 b, R50). -/
inductive BusTarget where
  | timing
  | keypad
deriving DecidableEq, Repr

/-- The address put on the bus: a constant of the configuration (R51). -/
def BusTarget.addr (c : Config) : BusTarget → Addr
  | .timing => c.timingAddr
  | .keypad => c.keypadAddr

/-- The register's current value, whole (R54, R59). -/
def BusTarget.value (s : State) : BusTarget → Half
  | .timing => s.vcount
  | .keypad => s.keyraw

/-- What `MemRead` leaves: a `Read` event, `bus_req` dropped in the cycle of the answer (R64), no effect on the device (R55). -/
def State.afterRead (t : BusTarget) (s : State) : State :=
  (s.log (.read (t.addr s.cfg) (t.value s))).setBusReq false

/-- `MemRead(addr, 2)`: one atomic step that returns the device's current value (R8, R54). -/
def memRead (t : BusTarget) (s : State) : Half × State :=
  (t.value s, s.afterRead t)

/-- The bus as bytes (R52): the two bytes of each mapped register, lower address first, and nothing at any other address
(R66). A byte address is a plain `Nat`. -/
def State.busByte (s : State) (a : Nat) : Option Byte :=
  if a = s.cfg.timingAddr.toNat then some (s.vcount.extractLsb' 0 8)
  else if a = s.cfg.timingAddr.toNat + 1 then some (s.vcount.extractLsb' 8 8)
  else if a = s.cfg.keypadAddr.toNat then some (s.keyraw.extractLsb' 0 8)
  else if a = s.cfg.keypadAddr.toNat + 1 then some (s.keyraw.extractLsb' 8 8)
  else none

/-- The halfword at `a` put together from its two bytes, the lower address holding bits 7:0 (R52). -/
def State.busHalf (s : State) (a : Nat) : Option Half :=
  match s.busByte (a + 1), s.busByte a with
  | some hi, some lo => some (hi ++ lo)
  | _, _ => none

/-! ### Responses, ticks and the end of a command (R8) -/

/-- `Respond(v)` (R88). -/
def respond (v : Half) (s : State) : State := (s.log (.rsp v)).setRsp (some v)

/-- `Tick()` (R105). -/
def emitTick (s : State) : State := (s.log .tick).setTick true

/-- `Complete()`: `SEQ <- IDLE; CHAIN <- 0`. -/
def complete (s : State) : State := (s.setSeq .idle).setChain false

/-- `raise IllegalCommand(w)` (R8, R141): the one fault there is. It sets `FAULT` with its record, appends the event and
changes nothing else; nothing is saved and no mode changes (R144). There is no return from it but reset (R145). -/
def raiseIllegalCommand (w : Word) (s : State) : State :=
  (s.setFault (some (.illegalCommand w))).log (.fault (.illegalCommand w))

/-! ### Reset (R160, R161) -/

/-- The block's elements and outputs at their reset values (R33), whatever was going on (R161). The devices, the
configuration, the client's words and the earlier history stay (R160, R162). -/
def resetBlock (s : State) : State :=
  ((((((s.setSeq .idle).setChain false).setPhase .drawPhase).setFault none).setBusReq false).dropPulses).log .reset

/-! ### Encodings and wires of the ports (R21 to R24, R32) -/

/-- The 2-bit encoding of `SEQ` (R21). -/
def Seq.code : Seq → BitVec 2
  | .idle => 0#2
  | .pollBlank => 1#2
  | .pollDraw => 2#2
  | .readKey => 3#2

/-- The 1-bit encoding of `PHASE`, also the output `phase` (R23). -/
def Phase.code : Phase → BitVec 1
  | .drawPhase => 0#1
  | .blankPhase => 1#1

/-- The code of a fault (R141). -/
def Fault.code : Fault → Nat
  | .illegalCommand _ => 1

/-- The code of `ConfigRefused` (R141). -/
def configRefusedCode : Nat := 2

/-- The model's `FAULT` bit (R24). -/
def State.faultBit (s : State) : Bool := s.fault.isSome

/-- Input `cmd_valid`: the client offers a word (R32). -/
def State.cmdValid (s : State) : Bool := !s.cmds.isEmpty

/-- Input `cmd_word`: the word on offer (R32). -/
def State.cmdWord (s : State) : Option Word := s.cmds.head?

/-- Output `cmd_ready = (SEQ = IDLE)` (R32). -/
def State.cmdReady (s : State) : Bool := s.seq == .idle

/-- Output `busy = (SEQ != IDLE)` (R24, R32). -/
def State.busy (s : State) : Bool := s.seq != .idle

/-- Output `phase = PHASE` (R32). -/
def State.phaseOut (s : State) : BitVec 1 := s.phase.code

/-- Output `rsp_valid` (R32). -/
def State.rspValid (s : State) : Bool := s.rsp.isSome

/-- The register a state reads: `POLL_BLANK` and `POLL_DRAW` the timing register, `READ_KEY` the keypad, `IDLE` none (R64). -/
def Seq.target : Seq → Option BusTarget
  | .idle => none
  | .pollBlank => some .timing
  | .pollDraw => some .timing
  | .readKey => some .keypad

/-- Output `bus_addr` while `bus_req = 1`; without meaning, here absent, otherwise (R32, R33). -/
def State.busAddr (s : State) : Option Addr :=
  if s.busReq then s.seq.target.map (BusTarget.addr s.cfg) else none

/-- Output `bus_size`, constant: halfword (R32). -/
def busSize : BitVec 2 := 0b01#2

/-- Output `bus_we`, constant: the block never writes (R32, R50). -/
def busWe : BitVec 1 := 0#1

end Sys2Proof.Machine
end

