-- ==== Sys2Proof/Machine/Input.lean ====
section
/-! DEFINITION. The input decoder: `READKEYS` (R120) with its `KeyRead` step, `Decode` (R122), and `ISPRESSED` (R121). -/

namespace Sys2Proof.Machine

/-- `Decode(r)` (R122): invert an active-low register, keep the ten named bits. -/
def decodeKeys (c : Config) (r : Half) : Half :=
  (if c.keyActiveLow then ~~~r else r) &&& 0x03FF#16

/-- `READKEYS` accepted (R89, R120). -/
def execReadkeys (s : State) : Host.Outcome State Fault Refusal :=
  .next ((s.setSeq .readKey).setChain false)

/-- `KeyRead` (R120): exactly one read, decoded into the response and kept nowhere (R20). -/
def keyRead (s : State) : State :=
  let (r, s') := memRead .keypad s
  complete (respond (decodeKeys s.cfg r) s')

/-- `ISPRESSED mask, button` (R121): the whole command, a pure function of the command word. -/
def execIspressed (mask button : Mask10) (s : State) : Host.Outcome State Fault Refusal :=
  .next (respond (zextBool (anyHeld mask button)) s)

end Sys2Proof.Machine
end

