-- ==== Sys2Proof/Machine/Sync.lean ====
section
/-! DEFINITION. The frame synchronizer: what `Accept` does for the three waits (R89, R100 to R102) and the shared `Poll`
step (R103) that carries each of them to its end. -/

namespace Sys2Proof.Machine

/-- `WAITBLANK` accepted (R89, R100). -/
def execWaitblank (s : State) : Host.Outcome State Fault Refusal :=
  .next ((s.setSeq .pollBlank).setChain false)

/-- `WAITDRAW` accepted (R89, R101). -/
def execWaitdraw (s : State) : Host.Outcome State Fault Refusal :=
  .next ((s.setSeq .pollDraw).setChain false)

/-- `SYNC` accepted (R89, R102). -/
def execSync (s : State) : Host.Outcome State Fault Refusal :=
  .next ((s.setSeq .pollBlank).setChain true)

/-- The blank half of `Poll`, after its read (R103). -/
def pollBlank (sample : Half) (s : State) : State :=
  if blanking s.cfg sample then
    if s.chain then ((s.setPhase .blankPhase).setChain false).setSeq .pollDraw
    else complete (respond 0#16 (s.setPhase .blankPhase))
  else s

/-- The draw half of `Poll`, after its read (R103): `PHASE` is read before it is written, and a tick comes before the
response (R105, R143 e). -/
def pollDraw (sample : Half) (s : State) : State :=
  if drawable s.cfg sample then
    if s.phase = .blankPhase then
      complete (respond (zextBool true) (emitTick (s.setPhase .drawPhase)))
    else complete (respond (zextBool false) (s.setPhase .drawPhase))
  else s

/-- `Poll` (R103): one read of the display-timing register and one comparison. -/
def poll (s : State) : State :=
  let (sample, s') := memRead .timing s
  if s.seq = .pollBlank then pollBlank sample s' else pollDraw sample s'

end Sys2Proof.Machine
end

