-- ==== Sys2Proof/Machine/Dispatch.lean ====
section
/-! DEFINITION. One arm per command (R83): what `Accept` does once the word is decoded (R89). -/

namespace Sys2Proof.Machine

def exec (i : Instr) (s : State) : Host.Outcome State Fault Refusal :=
  match i with
  | .waitblank => Sys2Proof.Machine.execWaitblank s
  | .waitdraw => Sys2Proof.Machine.execWaitdraw s
  | .sync => Sys2Proof.Machine.execSync s
  | .readkeys => Sys2Proof.Machine.execReadkeys s
  | .ispressed mask button => Sys2Proof.Machine.execIspressed mask button s

end Sys2Proof.Machine
end

