-- ==== Sys2Proof/Machine/Agents.lean ====
section
/-! DEFINITION. The steps of the five agents of R9, the answer of the bus, and the choice of the next move. -/

namespace Sys2Proof.Machine

/-- The next move and the state with it taken off the schedule; a free move once the schedule is used up (R9, log entry 4). -/
def nextMove (s : State) : Move × State :=
  match s.schedule with
  | m :: rest => (m, s.setSchedule rest)
  | [] => (Config.freeMove s.drawn, s.setDrawn (s.drawn + 1))

/-- `Accept(w)` (R89): append `Cmd(w)`, then the decoded command's arm, or `raise IllegalCommand(w)`. -/
def accept (w : Word) (s : State) : Host.Outcome State Fault Refusal :=
  match decode w with
  | .ok i => exec i (s.log (.cmd w))
  | .error _ => .next (raiseIllegalCommand w (s.log (.cmd w)))

/-- The block's own move: `Accept` when it is idle, and the raising of `bus_req` in the three states that read (R21,
R64). An idle block that is offered nothing waits, and so does one whose request stands (R10, R65, log entry 6). With
`FAULT = 1` it has no step and the machine stops with the fault (R24, log entry 5). -/
def blockStep (s : State) : Host.Outcome State Fault Refusal :=
  match s.fault with
  | some f => .fault f
  | none =>
    match s.seq with
    | .idle =>
      match s.cmds with
      | [] => .next s
      | w :: rest => accept w (s.setCmds rest)
    | .pollBlank => .next (s.setBusReq true)
    | .pollDraw => .next (s.setBusReq true)
    | .readKey => .next (s.setBusReq true)

/-- The block in the cycle of `bus_ack = 1`: it takes the value and drops `bus_req` (R64), which is its `Poll` or `KeyRead`
(R103, R120). An acknowledge for which no request stands is ignored (R161), and with `FAULT = 1` no step is enabled
(R24). -/
def ackStep (s : State) : State :=
  if s.busReq = true ∧ s.fault = none then
    match s.seq with
    | .idle => s
    | .pollBlank => poll s
    | .pollDraw => poll s
    | .readKey => keyRead s
  else s

/-- The client adds a word to those it will offer (R9); with `FAULT = 1` it has no enabled step (R24). -/
def offerStep (w : Word) (s : State) : Host.Outcome State Fault Refusal :=
  match s.fault with
  | some f => .fault f
  | none => .next (s.setCmds (s.cmds ++ [w]))

/-- The counter's next value: `(VCOUNT + 1) mod LINES` (R147). -/
def nextCount (c : Config) (v : Half) : Half := BitVec.ofNat 16 ((v.toNat + 1) % c.lines)

/-- The Display's `Advance` (R147). -/
def advance (s : State) : State := s.setVcount (nextCount s.cfg s.vcount)

/-- The Keypad's `Change(v)` (R148). -/
def change (v : Half) (s : State) : State := s.setKeyraw v

/-- One move of the agent it names (R9). -/
def runMove (m : Move) (s : State) : Host.Outcome State Fault Refusal :=
  match m with
  | .block => blockStep s
  | .ack => .next (ackStep s)
  | .offer w => offerStep w s
  | .advance => .next (advance s)
  | .change v => .next (change v s)
  | .reset => .next (resetBlock s)

/-- A word put in front of the client's sequence, at a block that is idle and has no fault, with the block to move next:
what it takes for the very next step to accept that word (R89). -/
def offerFirst (w : Word) (s : State) : State :=
  (((((s.setCmds (w :: s.cmds)).setSchedule (.block :: s.schedule)).setSeq .idle).setChain false).setFault none).setBusReq false

end Sys2Proof.Machine
end

