-- ==== Sys2Proof/Machine/Configuration.lean ====
section
/-! DEFINITION. The check of the configuration before any step (R6, R10, R66, R141). -/

namespace Sys2Proof.Machine

/-- The reason a configuration is refused, `none` when it is valid. Where several conditions fail, the first in R141's
order is named (DESIGN CHOICE, log entry 8). -/
def configRefusal (c : Config) : Option ConfigReason :=
  if c.timingAddr.getLsbD 0 then some .timingMisaligned
  else if c.keypadAddr.getLsbD 0 then some .keypadMisaligned
  else if c.timingAddr = c.keypadAddr then some .sameAddress
  else if c.lines < 2 ∨ 65536 < c.lines then some .linesOutOfRange
  else if c.blankThreshold.toNat < 1 ∨ c.lines - 1 < c.blankThreshold.toNat then some .thresholdOutOfRange
  else if c.timingMapped = false ∨ c.keypadMapped = false then some .unmapped
  else none

end Sys2Proof.Machine
end

