-- ==== Sys2Proof/Machine/Step.lean ====
section
/-! DEFINITION. One step of the machine: the configuration is checked (R10), then one agent moves (R9). -/

namespace Sys2Proof.Machine

/-- One step. A configuration that fails R6 is refused before any agent moves; otherwise the next move of the schedule
is taken, with the pulses of the step before gone (R32). -/
def step (s : State) : Host.Outcome State Fault Refusal :=
  match configRefusal s.cfg with
  | some r => .refused (.configRefused r)
  | none => runMove (nextMove s).1 (nextMove s).2.dropPulses

/-- The word offered so that the very next step accepts it and runs it (R89). There is no memory to fetch from (R62): a
program is the client's command sequence, which comes from outside (log entry 7). -/
def State.withFetchWord (s : State) (nbits w : Nat) : State :=
  offerFirst (BitVec.ofNat 32 (w % 2 ^ nbits)) s

end Sys2Proof.Machine
end

