-- ==== Sys2Proof/Machine/Assembler.lean ====
section
/-! DEFINITION. The assembler (R86, R87): the button constants (R28), the expansion of each line, and the reading of a
line's text. It is the client's tool; no step of the machine uses it. Text is a list of characters. -/

namespace Sys2Proof.Machine

/-- The bit position of a button: its place in the list of R27. -/
def buttonBit : Button → Nat
  | .a => 0
  | .b => 1
  | .select => 2
  | .start => 3
  | .right => 4
  | .left => 5
  | .up => 6
  | .down => 7
  | .r => 8
  | .l => 9

/-- The constant `KEY_*` of a button (R28, R87). -/
def buttonMask (key : Button) : Mask10 := 1#10 <<< buttonBit key

/-- The value of an operand: a number, or the OR of its names' constants (R86). -/
def operandValue : Operand → Mask10
  | .num n => BitVec.ofNat 10 n
  | .names keys => keys.foldl (fun m key => m ||| buttonMask key) 0#10

/-- The commands of one line (R86, R87). `m` is the value of the most recent `READKEYS` response, which the client puts
into `HELD`. -/
def expandLine (m : Mask10) : AsmLine → List Instr
  | .blank => []
  | .waitblank => [.waitblank]
  | .waitdraw => [.waitdraw]
  | .sync => [.sync]
  | .readkeys => [.readkeys]
  | .ispressed mask button => [.ispressed (operandValue mask) (operandValue button)]
  | .tick => [.sync]
  | .vsync2 => [.waitblank, .waitdraw]
  | .held key => [.ispressed m (buttonMask key)]

/-- The command words of a well-formed line; an ill-formed line has none. -/
def assemble (m : Mask10) (l : AsmLine) : Option (List Word) :=
  if l.wellFormed then some ((expandLine m l).map encode) else none

/-! ### Reading a line of text (R86) -/

/-- A space or a tab. -/
def isBlankChar (c : Char) : Bool := c == ' ' || c == '\t'

/-- Without blanks at either end. -/
def trimChars (cs : List Char) : List Char :=
  ((cs.dropWhile isBlankChar).reverse.dropWhile isBlankChar).reverse

/-- The part before the comment that `;` starts. -/
def withoutComment (cs : List Char) : List Char := cs.takeWhile (· != ';')

/-- The pieces between the separators, at least one. -/
def splitChars (sep : Char) : List Char → List (List Char)
  | [] => [[]]
  | c :: cs =>
    match splitChars sep cs with
    | [] => [[c]]
    | p :: ps => if c == sep then [] :: p :: ps else (c :: p) :: ps

/-- The value of one digit in a base up to 16. -/
def digitValue (base : Nat) (c : Char) : Option Nat :=
  let n := c.toNat
  let v := if 48 ≤ n ∧ n ≤ 57 then n - 48
    else if 65 ≤ n ∧ n ≤ 70 then n - 55
    else if 97 ≤ n ∧ n ≤ 102 then n - 87
    else 16
  if v < base then some v else none

/-- Digits, most significant first, after the value read so far. -/
def readDigits (base : Nat) : Nat → List Char → Option Nat
  | acc, [] => some acc
  | acc, c :: cs =>
    match digitValue base c with
    | some d => readDigits base (acc * base + d) cs
    | none => none

/-- A number: `0x` hexadecimal, `0b` binary, or decimal (R86). -/
def readNumber : List Char → Option Nat
  | [] => none
  | '0' :: 'x' :: c :: cs => readDigits 16 0 (c :: cs)
  | '0' :: 'b' :: c :: cs => readDigits 2 0 (c :: cs)
  | c :: cs => readDigits 10 0 (c :: cs)

/-- A button's name without `KEY_` (R28, R87). -/
def readButton (cs : List Char) : Option Button :=
  if cs = ['A'] then some .a
  else if cs = ['B'] then some .b
  else if cs = ['S', 'E', 'L', 'E', 'C', 'T'] then some .select
  else if cs = ['S', 'T', 'A', 'R', 'T'] then some .start
  else if cs = ['R', 'I', 'G', 'H', 'T'] then some .right
  else if cs = ['L', 'E', 'F', 'T'] then some .left
  else if cs = ['U', 'P'] then some .up
  else if cs = ['D', 'O', 'W', 'N'] then some .down
  else if cs = ['R'] then some .r
  else if cs = ['L'] then some .l
  else none

/-- A constant `KEY_*`. -/
def readKeyName (cs : List Char) : Option Button :=
  match trimChars cs with
  | 'K' :: 'E' :: 'Y' :: '_' :: name => readButton name
  | _ => none

/-- All of a list of readings, or none. -/
def allOf {α : Type} : List (Option α) → Option (List α)
  | [] => some []
  | none :: _ => none
  | some x :: rest => (allOf rest).map (x :: ·)

/-- An operand: a number, or names joined by `|` (R86). -/
def readOperand (cs : List Char) : Option Operand :=
  match readNumber (trimChars cs) with
  | some n => some (.num n)
  | none => (allOf ((splitChars '|' cs).map readKeyName)).map .names

/-- A line's mnemonic and the text of its operands. -/
def readLine (text : List Char) : Option AsmLine :=
  let body := trimChars (withoutComment text)
  let mnemonic := body.takeWhile (fun c => !isBlankChar c)
  let operands := trimChars (body.dropWhile (fun c => !isBlankChar c))
  if body = [] then some .blank
  else if mnemonic = ['I', 'S', 'P', 'R', 'E', 'S', 'S', 'E', 'D'] then
    match (splitChars ',' operands).map readOperand with
    | [some mask, some button] => some (.ispressed mask button)
    | _ => none
  else if mnemonic = ['H', 'E', 'L', 'D'] then (readButton operands).map .held
  else if operands ≠ [] then none
  else if mnemonic = ['W', 'A', 'I', 'T', 'B', 'L', 'A', 'N', 'K'] then some .waitblank
  else if mnemonic = ['W', 'A', 'I', 'T', 'D', 'R', 'A', 'W'] then some .waitdraw
  else if mnemonic = ['S', 'Y', 'N', 'C'] then some .sync
  else if mnemonic = ['R', 'E', 'A', 'D', 'K', 'E', 'Y', 'S'] then some .readkeys
  else if mnemonic = ['T', 'I', 'C', 'K'] then some .tick
  else if mnemonic = ['V', 'S', 'Y', 'N', 'C', '2'] then some .vsync2
  else none

/-- The command words of a line of text, none where it cannot be read or is ill formed. -/
def assembleText (m : Mask10) (text : List Char) : Option (List Word) :=
  (readLine text).bind (assemble m)

end Sys2Proof.Machine
end

