-- ==== Sys2Proof/Safety.lean ====
section
/-! DEFINITION. The words the claims are stated in: runs, states that can take a command, the end of a run (R11) and the
fairness such an end rests on (R172), the invariants, the transition table of R108, what a wait reads and guarantees
(R106), and counts over the history. -/

namespace Sys2Proof.Machine

/-! ### Runs -/

/-- `k` steps, stopping at the first fault or refusal. -/
def run : Nat → State → Host.Outcome State Fault Refusal
  | 0, s => .next s
  | k + 1, s =>
    match step s with
    | .next s' => run k s'
    | .fault f => .fault f
    | .refused r => .refused r

/-- The configuration is valid and there is no fault: the block is not barred from stepping (R10, R24). -/
def State.live (s : State) : Prop := configRefusal s.cfg = none ∧ s.fault = none

/-- Live and `IDLE`: a word that is offered is accepted by the block's next step (R89). -/
def State.ready (s : State) : Prop := s.live ∧ s.seq = .idle

/-- The bus acknowledges a request of the block in this step: the one step in which a read is made (R64, R103, R120). -/
abbrev State.answered (s : State) : Prop := (nextMove s).1 = .ack ∧ s.busReq = true ∧ s.fault = none

/-- The block accepts the word on offer in this step (R89). -/
abbrev State.accepting (s : State) : Prop := (nextMove s).1 = .block ∧ s.seq = .idle ∧ s.cmds ≠ []

/-! ### Moves -/

/-- The moves that can stand between two reads of one command (R9, R64, R103): all but an acknowledge and reset. The
block's own move raises `bus_req` there, or waits. -/
def isQuietMove : Move → Bool
  | .block => true
  | .ack => false
  | .offer _ => true
  | .advance => true
  | .change _ => true
  | .reset => false

/-- The counter after one move (R147). -/
def countAfter (c : Config) (v : Half) : Move → Half
  | .block => v
  | .ack => v
  | .offer _ => v
  | .advance => nextCount c v
  | .change _ => v
  | .reset => v

/-- The keypad register after one move (R148). -/
def keysAfter (v : Half) : Move → Half
  | .block => v
  | .ack => v
  | .offer _ => v
  | .advance => v
  | .change v' => v'
  | .reset => v

/-- The words one move adds to those the client will offer (R9). -/
def offeredBy : Move → List Word
  | .block => []
  | .ack => []
  | .offer w => [w]
  | .advance => []
  | .change _ => []
  | .reset => []

/-- The counter after some moves. -/
def countAfterAll (c : Config) (v : Half) (ms : List Move) : Half := ms.foldl (countAfter c) v

/-- The keypad register after some moves. -/
def keysAfterAll (v : Half) (ms : List Move) : Half := ms.foldl keysAfter v

/-- The words some moves add. -/
def offeredByAll (ms : List Move) : List Word := ms.flatMap offeredBy

/-- How many Display steps are among some moves: the stride of R165, for the moves between two polls. -/
def advances (ms : List Move) : Nat := ms.count .advance

/-- A round of moves before an acknowledge: quiet, with a move of the block among them, which raises the request. -/
abbrev quietRound (ms : List Move) : Prop := .block ∈ ms ∧ ∀ m ∈ ms, isQuietMove m = true

/-- A schedule of polls: a round of moves and the acknowledge, for each poll. -/
def pollPlan (plan : List (List Move)) : List Move := plan.flatMap (fun ms => ms ++ [.ack])

/-- Every list of a plan is a quiet round. -/
def quietPlan (plan : List (List Move)) : Prop := ∀ ms ∈ plan, quietRound ms

/-- The samples the polls of a plan read, from a counter value (R59, R103). -/
def planSamples (c : Config) : Half → List (List Move) → List Half
  | _, [] => []
  | v, ms :: rest => countAfterAll c v ms :: planSamples c (countAfterAll c v ms) rest

/-! ### What a completed wait guarantees (R106) -/

/-- `WAITBLANK`: at least one sample, all but the last below `N`, the last at or above it. -/
def blankGuarantee (c : Config) (samples : List Half) : Prop :=
  ∃ ys y, samples = ys ++ [y] ∧ (∀ x ∈ ys, x.toNat < c.blankThreshold.toNat)
    ∧ c.blankThreshold.toNat ≤ y.toNat

/-- `WAITDRAW`: at least one sample, all but the last at or above `N`, the last below it. -/
def drawGuarantee (c : Config) (samples : List Half) : Prop :=
  ∃ ys y, samples = ys ++ [y] ∧ (∀ x ∈ ys, c.blankThreshold.toNat ≤ x.toNat)
    ∧ y.toNat < c.blankThreshold.toNat

/-- `SYNC`: the one and then the other, on samples of its own. -/
def syncGuarantee (c : Config) (samples : List Half) : Prop :=
  ∃ xs ys, samples = xs ++ ys ∧ blankGuarantee c xs ∧ drawGuarantee c ys

/-- The `Read` events of some samples of the display-timing register. -/
def timingReads (c : Config) (samples : List Half) : List Event :=
  samples.map (fun x => .read c.timingAddr x)

/-! ### Counts over the history -/

/-- `Rsp` events. -/
def Event.isRsp : Event → Bool
  | .rsp _ => true
  | _ => false

/-- `Tick` events. -/
def Event.isTick : Event → Bool
  | .tick => true
  | _ => false

/-- `Read` events. -/
def Event.isRead : Event → Bool
  | .read _ _ => true
  | _ => false

/-- `Cmd` events of legal words (R88). -/
def Event.isLegalCmd : Event → Bool
  | .cmd w => legalWord w
  | _ => false

/-- The events after the last `Reset`. -/
def sinceReset (h : List Event) : List Event := (h.reverse.takeWhile (· != .reset)).reverse

/-- Every `Tick` is followed at once by `Rsp(0x0001)` (R105, R143 e). -/
def ticksReported : List Event → Bool
  | [] => true
  | .tick :: rest => (rest.head? == some (.rsp 1#16)) && ticksReported rest
  | .cmd _ :: rest => ticksReported rest
  | .read _ _ :: rest => ticksReported rest
  | .rsp _ :: rest => ticksReported rest
  | .fault _ :: rest => ticksReported rest
  | .reset :: rest => ticksReported rest

/-- Every accepted legal command since the last reset has its one response, but for the one in progress (R88). -/
def State.responsesBalanced (s : State) : Prop :=
  (sinceReset s.history).countP Event.isLegalCmd
    = (sinceReset s.history).countP Event.isRsp + (if s.seq = .idle then 0 else 1)

/-- The end of a run of `k` commands (R11): idle, no fault, exactly `k` responses. It says nothing of the devices. A
claim that a run gets there rests on the four assumptions below, `FairSchedule` (R172); without them a wait may poll for
ever (R170) and a request may stand for ever (R65), and neither is the end of a run. -/
def State.over (k : Nat) (s : State) : Prop :=
  s.seq = .idle ∧ s.fault = none ∧ s.history.countP Event.isRsp = k

/-! ### Fairness (R172)

The machine models no time, and none of these is built into it (log entry 19): each is a premise a claim of termination names. They are
said of an endless schedule, of which a state is given as many moves as are looked at. -/

/-- The moves of an endless schedule from the `i`-th, as many as `n`. -/
def movesFrom (sched : Nat → Move) (i n : Nat) : List Move := (List.range' i n).map sched

/-- The outcome of the first `k` moves of an endless schedule, from a state. -/
def along (sched : Nat → Move) (s : State) (k : Nat) : Host.Outcome State Fault Refusal :=
  run k { s with schedule := movesFrom sched 0 k }

/-- The block has a step of its own: a word to accept, or a request to raise (R10, R64, R89). -/
def State.blockEnabled (s : State) : Prop :=
  s.fault = none ∧ ((s.seq = .idle ∧ s.cmds ≠ []) ∨ (s.seq ≠ .idle ∧ s.busReq = false))

/-- (F1) Every bus request is acknowledged in the end (R65, R172). -/
def requestsAnswered (sched : Nat → Move) (s : State) : Prop :=
  ∀ k u, along sched s k = .next u → u.busReq = true → ∃ j, k ≤ j ∧ sched j = .ack

/-- (F2) The Display advances infinitely often (R172). -/
def displayRuns (sched : Nat → Move) : Prop := ∀ k, ∃ j, k ≤ j ∧ sched j = .advance

/-- (F3) An enabled step of the block is taken in the end, or is enabled no longer (R172: weak fairness). -/
def blockRuns (sched : Nat → Move) (s : State) : Prop :=
  ∀ k, ∃ j, k ≤ j ∧ (sched j = .block ∨ ∀ u, along sched s j = .next u → ¬ u.blockEnabled)

/-- The `k`-th move of the schedule is the acknowledge of a request that stands: a read of the block, in state `u`. -/
def readsAt (sched : Nat → Move) (s : State) (k : Nat) (u : State) : Prop :=
  along sched s k = .next u ∧ sched k = .ack ∧ u.busReq = true

/-- (F4) The stride bounds of R165: after a poll that did not end its wait, the Display steps up to the next poll are no
more than the awaited region is long. -/
def stridesBounded (sched : Nat → Move) (s : State) : Prop :=
  ∀ i n u v, readsAt sched s i u → readsAt sched s (i + n + 1) v →
    (∀ k x, i < k → k < i + n + 1 → ¬ readsAt sched s k x) →
    (u.seq = .pollBlank → u.vcount.toNat < s.cfg.blankThreshold.toNat →
        advances (movesFrom sched i (n + 1)) ≤ s.cfg.lines - s.cfg.blankThreshold.toNat)
      ∧ (u.seq = .pollDraw → s.cfg.blankThreshold.toNat ≤ u.vcount.toNat →
        advances (movesFrom sched i (n + 1)) ≤ s.cfg.blankThreshold.toNat)

/-- The four together (R172). Nothing is assumed of the Keypad or the client. -/
structure FairSchedule (sched : Nat → Move) (s : State) : Prop where
  f1 : requestsAnswered sched s
  f2 : displayRuns sched
  f3 : blockRuns sched s
  f4 : stridesBounded sched s

/-! ### Invariants -/

/-- The block's elements and outputs agree: `CHAIN = 1` only in `POLL_BLANK` (R22), a fault only in an idle block (R144),
`bus_req` only where there is a register to read (R64), a `tick` pulse only beside the response `0x0001` (R105). -/
def State.controlInv (s : State) : Prop :=
  (s.chain = true → s.seq = .pollBlank)
    ∧ (s.fault ≠ none → s.seq = .idle)
    ∧ (s.busReq = true → s.seq ≠ .idle)
    ∧ (s.tick = true → s.rsp = some 1#16)

/-- `VCOUNT` is within `0 .. LINES-1` (R26). -/
def State.counterInv (s : State) : Prop := s.vcount.toNat < s.cfg.lines

/-! ### The transition table of `SEQ` and `CHAIN` (R108) -/

/-- The rows of R108 that a step of the block can take, in its order. -/
def controlEdges : List ((Seq × Bool) × (Seq × Bool)) :=
  [((.idle, false), (.pollBlank, false)),
   ((.idle, false), (.pollDraw, false)),
   ((.idle, false), (.pollBlank, true)),
   ((.idle, false), (.readKey, false)),
   ((.idle, false), (.idle, false)),
   ((.pollBlank, false), (.pollBlank, false)),
   ((.pollBlank, true), (.pollBlank, true)),
   ((.pollBlank, false), (.idle, false)),
   ((.pollBlank, true), (.pollDraw, false)),
   ((.pollDraw, false), (.pollDraw, false)),
   ((.pollDraw, false), (.idle, false)),
   ((.readKey, false), (.idle, false))]

/-- `SEQ` and `CHAIN`. -/
def State.control (s : State) : Seq × Bool := (s.seq, s.chain)

/-- A state with another past: the same but for its history and for the pulses of the step before. -/
def State.withPast (h : List Event) (r : Option Half) (t : Bool) (s : State) : State :=
  { s with history := h, rsp := r, tick := t }

end Sys2Proof.Machine
end

