-- ==== Sys2Proof/Certificates/Slice0/Obligations.lean ====
section
/-! DEFINITION. The statements for the provers. Each says which rule of spec/ it formalises. -/

open Sys2Proof Sys2Proof.Machine

/-! ### Encoding -/

/-- R81 to R83: no operand bit is lost between a command and its word. -/
def Obligations.EncodeThenDecodeGivesBack : Prop :=
  ∀ i : Instr, decode (encode i) = .ok i

/-- R83, R84: a legal word is the word of exactly one command. -/
def Obligations.LegalWordHasOneCommand : Prop :=
  ∀ (w : Word) (i : Instr), decode w = .ok i → encode i = w

/-- R83: a word selects a command when `(cmd_word & mask) = match`, row by row, with `A = w[25:16]` and `B = w[9:0]`;
and the mnemonic aid `SYNC = WAITBLANK | WAITDRAW`. -/
def Obligations.WordSelectsCommandByMatchAndMask : Prop :=
  (∀ w : Word,
    (w &&& 0xFFFFFFFF#32 = 0x10000000#32 ↔ decode w = .ok .waitblank)
      ∧ (w &&& 0xFFFFFFFF#32 = 0x20000000#32 ↔ decode w = .ok .waitdraw)
      ∧ (w &&& 0xFFFFFFFF#32 = 0x30000000#32 ↔ decode w = .ok .sync)
      ∧ (w &&& 0xFFFFFFFF#32 = 0x40000000#32 ↔ decode w = .ok .readkeys)
      ∧ (w &&& 0xFC00FC00#32 = 0x50000000#32 ↔ ∃ a b, decode w = .ok (.ispressed a b))
      ∧ (∀ a b, decode w = .ok (.ispressed a b) →
          a.toNat = w.toNat / 2 ^ 16 % 2 ^ 10 ∧ b.toNat = w.toNat % 2 ^ 10))
    ∧ encode .sync = encode .waitblank ||| encode .waitdraw

/-- R84: which words are illegal, field by field; the all-zero and the all-ones word are among them. -/
def Obligations.IllegalWordsAreTheReservedOnes : Prop :=
  (∀ w : Word,
    (∃ r, decode w = .error r) ↔
      (fieldOp w = 0x0#4 ∨ 0x6 ≤ (fieldOp w).toNat)
        ∨ fieldZ1 w ≠ 0#2
        ∨ fieldZ2 w ≠ 0#6
        ∨ ((1 ≤ (fieldOp w).toNat ∧ (fieldOp w).toNat ≤ 4) ∧ (fieldA w ≠ 0#10 ∨ fieldB w ≠ 0#10)))
    ∧ legalWord 0x00000000#32 = false
    ∧ legalWord 0xFFFFFFFF#32 = false

/-- R84: of the `2^32` words, `4 + 2^20` are legal. -/
def Obligations.LegalWordsNumberFourAndTwoToTheTwenty : Prop :=
  Set.ncard {w : Word | legalWord w = true} = 4 + 2 ^ 20

/-- 95_test_vectors.md section 2: listed words decode to the commands they stand for, and listed illegal words do not. -/
def Obligations.ListedWordsDecodeAsListed : Prop :=
  decode 0x10000000#32 = .ok .waitblank
    ∧ decode 0x20000000#32 = .ok .waitdraw
    ∧ decode 0x30000000#32 = .ok .sync
    ∧ decode 0x40000000#32 = .ok .readkeys
    ∧ decode 0x50400040#32 = .ok (.ispressed 0x040#10 0x040#10)
    ∧ decode 0x52AA0155#32 = .ok (.ispressed 0x2AA#10 0x155#10)
    ∧ decode 0x53FF03FF#32 = .ok (.ispressed 0x3FF#10 0x3FF#10)
    ∧ legalWord 0x10000001#32 = false
    ∧ legalWord 0x58000000#32 = false
    ∧ legalWord 0x50000400#32 = false

/-- R86, R87: the command words of each form of a well-formed line, written out by the commands they decode to: the five
commands, `TICK` = `SYNC`, `VSYNC2` = `WAITBLANK` then `WAITDRAW`, `HELD name` = `ISPRESSED m, KEY_name`; a number stands
for itself, and names joined by `|` for the OR of their constants, bit by bit. That an ill-formed
line (a number of 1024 or more, an empty list of names) has no words is the model's choice (log entry 18). -/
def Obligations.AssembledLinesDecodeToTheirExpansion : Prop :=
  ∀ (m : Mask10) (l : AsmLine),
    (l.wellFormed = false → assemble m l = none)
      ∧ (l.wellFormed = true → ∃ ws, assemble m l = some ws ∧
        match l with
        | .blank => ws = []
        | .waitblank => ws = [0x10000000#32]
        | .waitdraw => ws = [0x20000000#32]
        | .sync => ws = [0x30000000#32]
        | .readkeys => ws = [0x40000000#32]
        | .tick => ws = [0x30000000#32]
        | .vsync2 => ws = [0x10000000#32, 0x20000000#32]
        | .held key => ∃ b : Mask10, ws.map decode = [.ok (.ispressed m b)] ∧ ∀ i, b.getLsbD i = decide (i = buttonBit key)
        | .ispressed x y => ∃ a b : Mask10, ws.map decode = [.ok (.ispressed a b)]
            ∧ ∀ o v, (o = x ∧ v = a) ∨ (o = y ∧ v = b) →
                (∀ n, o = .num n → v.toNat = n)
                  ∧ (∀ keys, o = .names keys → ∀ i, v.getLsbD i = true ↔ ∃ key ∈ keys, i = buttonBit key))

/-- R27, R28, R87: the ten button constants with their values and the ten positions, in the order of the spec's list; bit
`i` of a constant is 1 exactly at the button's own position, and the ten positions differ. -/
def Obligations.ButtonConstantsHaveOneBitEach : Prop :=
  (buttonMask .a = 0x001#10 ∧ buttonMask .b = 0x002#10 ∧ buttonMask .select = 0x004#10 ∧ buttonMask .start = 0x008#10
      ∧ buttonMask .right = 0x010#10 ∧ buttonMask .left = 0x020#10 ∧ buttonMask .up = 0x040#10
      ∧ buttonMask .down = 0x080#10 ∧ buttonMask .r = 0x100#10 ∧ buttonMask .l = 0x200#10)
    ∧ [Button.a, .b, .select, .start, .right, .left, .up, .down, .r, .l].map buttonBit = List.range 10
    ∧ (∀ (key : Button) (i : Nat), (buttonMask key).getLsbD i = decide (i = buttonBit key))
    ∧ ∀ key other : Button, buttonBit key = buttonBit other → key = other

/-! ### One command accepted -/

/-- The bridge from commands to runs: with a legal word on offer at a ready block whose turn it is, the step is `exec` of
the decoded command, on the state with the word and the move taken, the pulses down and `Cmd(w)` appended (R89). -/
def Obligations.StepRunsTheDecodedCommand : Prop :=
  ∀ (s : State) (w : Word) (rest : List Word) (ms : List Move) (i : Instr),
    s.ready → s.cmds = w :: rest → s.schedule = .block :: ms → decode w = .ok i →
      step s = exec i { s with
        cmds := rest, schedule := ms, rsp := none, tick := false, history := s.history ++ [.cmd w] }

/-- A word put in front by `withFetchWord` is accepted and run by the very next step, in every valid configuration. -/
def Obligations.FetchedWordRunsNext : Prop :=
  ∀ (s : State) (w : Word) (i : Instr), configRefusal s.cfg = none → decode w = .ok i →
    step (s.withFetchWord 32 w.toNat) = exec i { s with
      seq := .idle, chain := false, fault := none, busReq := false, rsp := none, tick := false,
      history := s.history ++ [.cmd w] }

/-- R89: `Accept`, its six cases, and what it leaves alone; and no step accepts a word offered to a block that is not
`IDLE`, and none loses it. That the words stay through a reset as well is the model's choice (log entry 15). -/
def Obligations.AcceptStepFollowsTheRule : Prop :=
  (∀ (s : State) (w : Word) (rest : List Word) (ms : List Move),
    s.ready → s.cmds = w :: rest → s.schedule = .block :: ms →
      ∃ t, step s = .next t
        ∧ (t.cfg = s.cfg ∧ t.phase = s.phase ∧ t.busReq = s.busReq ∧ t.tick = false ∧ t.vcount = s.vcount
          ∧ t.keyraw = s.keyraw ∧ t.cmds = rest ∧ t.schedule = ms ∧ t.drawn = s.drawn)
        ∧ (if w = 0x10000000#32 then
            t.seq = .pollBlank ∧ t.chain = false ∧ t.fault = none ∧ t.rsp = none ∧ t.history = s.history ++ [.cmd w]
          else if w = 0x20000000#32 then
            t.seq = .pollDraw ∧ t.chain = false ∧ t.fault = none ∧ t.rsp = none ∧ t.history = s.history ++ [.cmd w]
          else if w = 0x30000000#32 then
            t.seq = .pollBlank ∧ t.chain = true ∧ t.fault = none ∧ t.rsp = none ∧ t.history = s.history ++ [.cmd w]
          else if w = 0x40000000#32 then
            t.seq = .readKey ∧ t.chain = false ∧ t.fault = none ∧ t.rsp = none ∧ t.history = s.history ++ [.cmd w]
          else if w &&& 0xFC00FC00#32 = 0x50000000#32 then
            ∃ v : Half, v = (if w.extractLsb' 16 10 &&& w.extractLsb' 0 10 ≠ 0#10 then 1#16 else 0#16)
              ∧ t.seq = .idle ∧ t.chain = s.chain ∧ t.fault = none ∧ t.rsp = some v
              ∧ t.history = s.history ++ [.cmd w, .rsp v]
          else
            t.seq = .idle ∧ t.chain = s.chain ∧ t.fault = some (.illegalCommand w) ∧ t.rsp = none
              ∧ t.history = s.history ++ [.cmd w, .fault (.illegalCommand w)]))
    ∧ (∀ s t : State, s.seq ≠ .idle → step s = .next t →
        (∃ ws, t.cmds = s.cmds ++ ws) ∧ ∃ es, t.history = s.history ++ es ∧ ∀ w, Event.cmd w ∉ es)

/-- R100, R101, R102, R120: `exec` of a wait or of `READKEYS` always completes, writes `SEQ` and `CHAIN`, and nothing else. -/
def Obligations.WaitsAndReadkeysEnterTheirState : Prop :=
  ∀ s : State,
    exec .waitblank s = .next { s with seq := .pollBlank, chain := false }
      ∧ exec .waitdraw s = .next { s with seq := .pollDraw, chain := false }
      ∧ exec .sync s = .next { s with seq := .pollBlank, chain := true }
      ∧ exec .readkeys s = .next { s with seq := .readKey, chain := false }

/-- R121, R123: `ISPRESSED` answers 1 exactly when some bit is set in both operands, whatever they are, and writes nothing
but the response; as `exec`, and as the step that accepts its word. -/
def Obligations.IspressedAnswersAnyCommonBit : Prop :=
  ∀ (a b : Mask10) (v : Half),
    ((∃ i, i < 10 ∧ a.getLsbD i = true ∧ b.getLsbD i = true) → v = 1#16) →
    ((¬ ∃ i, i < 10 ∧ a.getLsbD i = true ∧ b.getLsbD i = true) → v = 0#16) →
      (∀ s : State, exec (.ispressed a b) s = .next { s with rsp := some v, history := s.history ++ [.rsp v] })
        ∧ (∀ (s : State) (w : Word) (rest : List Word) (ms : List Move), s.ready →
            w = 0x50000000#32 ||| a.setWidth 32 <<< 16 ||| b.setWidth 32 →
            s.cmds = w :: rest → s.schedule = .block :: ms →
              step s = .next { s with
                cmds := rest, schedule := ms, rsp := some v, tick := false,
                history := s.history ++ [.cmd w, .rsp v] })

/-- R84, R141, R144: an accepted illegal word sets `FAULT` with the word, appends the fault to the history, gets no
response, and changes nothing else. -/
def Obligations.IllegalWordSetsFaultAndNothingElse : Prop :=
  ∀ (s : State) (w : Word) (rest : List Word) (ms : List Move) (r : Illegal),
    s.ready → s.cmds = w :: rest → s.schedule = .block :: ms → decode w = .error r →
      step s = .next { s with
        cmds := rest, schedule := ms, rsp := none, tick := false, fault := some (.illegalCommand w),
        history := s.history ++ [.cmd w, .fault (.illegalCommand w)] }

/-- R24, R141, R145: while `FAULT` is set no step of the block or the client is taken (an acknowledge starts none), the
devices go on, and reset is the one way out. That such a pick stops the run is the model's choice (log entry 5). -/
def Obligations.FaultBarsBlockAndClientUntilReset : Prop :=
  ∀ (s : State) (f : Fault) (m : Move) (ms : List Move),
    configRefusal s.cfg = none → s.fault = some f → s.schedule = m :: ms →
      (m = .block ∨ (∃ w, m = .offer w) → step s = .fault f)
        ∧ (m = .advance ∨ (∃ v, m = .change v) ∨ m = .ack →
            ∃ t, step s = .next t ∧ t.fault = some f ∧ t.control = s.control ∧ t.phase = s.phase ∧ t.cmds = s.cmds
              ∧ t.history = s.history)
        ∧ (m = .reset → ∃ t, step s = .next t ∧ t.fault = none ∧ t.control = (.idle, false))

/-! ### The steps that carry a command to its end -/

/-- R103, R104: `Poll`, in the step in which the bus acknowledges: its six cases, each with the whole next state. The
comparison is unsigned on all 16 bits. -/
def Obligations.PollStepFollowsTheRule : Prop :=
  ∀ (s : State) (ms : List Move),
    s.live → (s.seq = .pollBlank ∨ s.seq = .pollDraw) → s.busReq = true → s.schedule = .ack :: ms →
      ∀ base : State,
        base = { s with
          schedule := ms, rsp := none, tick := false, busReq := false,
          history := s.history ++ [.read s.cfg.timingAddr s.vcount] } →
        (s.seq = .pollBlank → s.vcount.toNat < s.cfg.blankThreshold.toNat → step s = .next base)
          ∧ (s.seq = .pollBlank → s.cfg.blankThreshold.toNat ≤ s.vcount.toNat → s.chain = true →
              step s = .next { base with phase := .blankPhase, chain := false, seq := .pollDraw })
          ∧ (s.seq = .pollBlank → s.cfg.blankThreshold.toNat ≤ s.vcount.toNat → s.chain = false →
              step s = .next { base with
                phase := .blankPhase, chain := false, seq := .idle, rsp := some 0#16,
                history := base.history ++ [.rsp 0#16] })
          ∧ (s.seq = .pollDraw → s.cfg.blankThreshold.toNat ≤ s.vcount.toNat → step s = .next base)
          ∧ (s.seq = .pollDraw → s.vcount.toNat < s.cfg.blankThreshold.toNat → s.phase = .blankPhase →
              step s = .next { base with
                phase := .drawPhase, chain := false, seq := .idle, rsp := some 1#16, tick := true,
                history := base.history ++ [.tick, .rsp 1#16] })
          ∧ (s.seq = .pollDraw → s.vcount.toNat < s.cfg.blankThreshold.toNat → s.phase = .drawPhase →
              step s = .next { base with
                phase := .drawPhase, chain := false, seq := .idle, rsp := some 0#16,
                history := base.history ++ [.rsp 0#16] })

/-- R122: `Decode`, bit by bit, and its two closed forms. -/
def Obligations.DecodeKeysBitByBit : Prop :=
  ∀ (c : Config) (r : Half),
    (∀ i, (decodeKeys c r).getLsbD i = (decide (i < 10) && (r.getLsbD i ^^ c.keyActiveLow)))
      ∧ (c.keyActiveLow = true → decodeKeys c r = (r &&& 0x03FF#16) ^^^ 0x03FF#16)
      ∧ (c.keyActiveLow = false → decodeKeys c r = r &&& 0x03FF#16)

/-- R120: `KeyRead`, in the step in which the bus acknowledges, reads the keypad once, answers its decoded value, and keeps
nothing: the whole next state. -/
def Obligations.KeyReadStepFollowsTheRule : Prop :=
  ∀ (s : State) (ms : List Move), s.live → s.seq = .readKey → s.busReq = true → s.schedule = .ack :: ms →
    ∀ v : Half, (∀ i, v.getLsbD i = (decide (i < 10) && (s.keyraw.getLsbD i ^^ s.cfg.keyActiveLow))) →
      step s = .next { s with
        schedule := ms, busReq := false, tick := false, seq := .idle, chain := false, rsp := some v,
        history := s.history ++ [.read s.cfg.keypadAddr s.keyraw, .rsp v] }

/-! ### Whole commands, from the word on offer to the response -/

/-- R100, R106: `WAITBLANK` over any plan of polls whose samples are below `N` up to a last one at or above it: that many
reads, `PHASE = BlankPhase`, response `0x0000`, no tick. -/
def Obligations.WaitblankRunsToItsResponse : Prop :=
  ∀ (s : State) (rest : List Word) (plan : List (List Move)) (tail : List Move) (ys : List Half) (y : Half),
    s.ready → s.cmds = 0x10000000#32 :: rest → s.schedule = .block :: (pollPlan plan ++ tail) → quietPlan plan →
    planSamples s.cfg s.vcount plan = ys ++ [y] →
    (∀ x ∈ ys, x.toNat < s.cfg.blankThreshold.toNat) → s.cfg.blankThreshold.toNat ≤ y.toNat →
      run (1 + (pollPlan plan).length) s = .next { s with
        seq := .idle, chain := false, phase := .blankPhase, busReq := false, rsp := some 0#16, tick := false,
        vcount := y, keyraw := keysAfterAll s.keyraw plan.flatten, cmds := rest ++ offeredByAll plan.flatten,
        schedule := tail,
        history := s.history ++ [.cmd 0x10000000#32] ++ timingReads s.cfg (ys ++ [y]) ++ [.rsp 0#16] }

/-- R101, R105, R106: `WAITDRAW` over any plan of polls whose samples are at or above `N` up to a last one below it: that
many reads, `PHASE = DrawPhase`, a tick and `0x0001` exactly when `PHASE` was `BlankPhase`. -/
def Obligations.WaitdrawRunsToItsResponse : Prop :=
  ∀ (s : State) (rest : List Word) (plan : List (List Move)) (tail : List Move) (ys : List Half) (y : Half),
    s.ready → s.cmds = 0x20000000#32 :: rest → s.schedule = .block :: (pollPlan plan ++ tail) → quietPlan plan →
    planSamples s.cfg s.vcount plan = ys ++ [y] →
    (∀ x ∈ ys, s.cfg.blankThreshold.toNat ≤ x.toNat) → y.toNat < s.cfg.blankThreshold.toNat →
      run (1 + (pollPlan plan).length) s = .next { s with
        seq := .idle, chain := false, phase := .drawPhase, busReq := false,
        rsp := some (if s.phase = .blankPhase then 1#16 else 0#16), tick := decide (s.phase = .blankPhase),
        vcount := y, keyraw := keysAfterAll s.keyraw plan.flatten, cmds := rest ++ offeredByAll plan.flatten,
        schedule := tail,
        history := s.history ++ [.cmd 0x20000000#32] ++ timingReads s.cfg (ys ++ [y])
          ++ (if s.phase = .blankPhase then [.tick, .rsp 1#16] else [.rsp 0#16]) }

/-- R102, R105, R106: `SYNC` over any plan of polls whose samples are below `N`, then one at or above it, then at or above
it, then a last one below it: that many reads, one tick, response `0x0001`, whatever `PHASE` was. -/
def Obligations.SyncRunsToItsOneTick : Prop :=
  ∀ (s : State) (rest : List Word) (plan : List (List Move)) (tail : List Move) (xs ys : List Half) (x y : Half),
    s.ready → s.cmds = 0x30000000#32 :: rest → s.schedule = .block :: (pollPlan plan ++ tail) → quietPlan plan →
    planSamples s.cfg s.vcount plan = (xs ++ [x]) ++ (ys ++ [y]) →
    (∀ z ∈ xs, z.toNat < s.cfg.blankThreshold.toNat) → s.cfg.blankThreshold.toNat ≤ x.toNat →
    (∀ z ∈ ys, s.cfg.blankThreshold.toNat ≤ z.toNat) → y.toNat < s.cfg.blankThreshold.toNat →
      run (1 + (pollPlan plan).length) s = .next { s with
        seq := .idle, chain := false, phase := .drawPhase, busReq := false, rsp := some 1#16, tick := true,
        vcount := y, keyraw := keysAfterAll s.keyraw plan.flatten, cmds := rest ++ offeredByAll plan.flatten,
        schedule := tail,
        history := s.history ++ [.cmd 0x30000000#32] ++ timingReads s.cfg ((xs ++ [x]) ++ (ys ++ [y]))
          ++ [.tick, .rsp 1#16] }

/-- R102 (f): `SYNC` and the pair `WAITBLANK`, `WAITDRAW`, over the same polls: the same reads in the same order, the same
number of ticks, the same `PHASE`, the same last response, and the block idle after both. -/
def Obligations.SyncIsTheTwoWaitsInOne : Prop :=
  ∀ (s : State) (rest : List Word) (p q : List (List Move)) (tail : List Move),
    s.ready → quietPlan p → quietPlan q →
    blankGuarantee s.cfg (planSamples s.cfg s.vcount p) →
    drawGuarantee s.cfg (planSamples s.cfg (countAfterAll s.cfg s.vcount p.flatten) q) →
      ∃ t u,
        run (1 + (pollPlan (p ++ q)).length)
            { s with cmds := 0x30000000#32 :: rest, schedule := .block :: (pollPlan (p ++ q) ++ tail) } = .next t
          ∧ run (1 + (pollPlan p).length + (1 + (pollPlan q).length))
            { s with
              cmds := 0x10000000#32 :: 0x20000000#32 :: rest,
              schedule := .block :: (pollPlan p ++ .block :: (pollPlan q ++ tail)) } = .next u
          ∧ t.history.filter Event.isRead = u.history.filter Event.isRead
          ∧ t.history.countP Event.isTick = s.history.countP Event.isTick + 1
          ∧ u.history.countP Event.isTick = s.history.countP Event.isTick + 1
          ∧ t.phase = u.phase ∧ t.rsp = u.rsp ∧ t.seq = .idle ∧ u.seq = .idle ∧ t.vcount = u.vcount
          ∧ t.history.countP Event.isRsp + 1 = u.history.countP Event.isRsp

/-- R106: over ANY schedule without a reset, whatever the devices and the client do in between: the first state in which
the block is idle again after accepting a wait has, since then, exactly one `Cmd`, reads of the display-timing register
alone whose samples meet the command's guarantee, the tick if any, and the one response. -/
def Obligations.CompletedWaitMeetsItsGuarantee : Prop :=
  ∀ (s t : State) (w : Word) (rest : List Word) (ms tail : List Move),
    s.ready → s.cmds = w :: rest → s.schedule = (.block :: ms) ++ tail → Move.reset ∉ ms →
    run (1 + ms.length) s = .next t → t.seq = .idle →
    (∀ j u, 1 ≤ j → j ≤ ms.length → run j s = .next u → u.seq ≠ .idle) →
      (w = 0x10000000#32 → ∃ samples, blankGuarantee s.cfg samples
          ∧ t.history = s.history ++ [.cmd w] ++ timingReads s.cfg samples ++ [.rsp 0#16])
        ∧ (w = 0x20000000#32 → ∃ samples, drawGuarantee s.cfg samples
          ∧ t.history = s.history ++ [.cmd w] ++ timingReads s.cfg samples
              ++ (if s.phase = .blankPhase then [.tick, .rsp 1#16] else [.rsp 0#16]))
        ∧ (w = 0x30000000#32 → ∃ samples, syncGuarantee s.cfg samples
          ∧ t.history = s.history ++ [.cmd w] ++ timingReads s.cfg samples ++ [.tick, .rsp 1#16])

/-- R120, R20: `READKEYS` runs to its response with exactly one read, of the keypad register as it stands at the read. -/
def Obligations.ReadkeysRunsToItsResponse : Prop :=
  ∀ (s : State) (rest : List Word) (ms tail : List Move) (k : Half),
    s.ready → s.cmds = 0x40000000#32 :: rest → s.schedule = .block :: (ms ++ .ack :: tail) →
    quietRound ms → k = keysAfterAll s.keyraw ms →
      run (2 + ms.length) s = .next { s with
        seq := .idle, chain := false, busReq := false, rsp := some (decodeKeys s.cfg k), tick := false,
        vcount := countAfterAll s.cfg s.vcount ms, keyraw := k, cmds := rest ++ offeredByAll ms,
        schedule := tail,
        history := s.history ++ [.cmd 0x40000000#32, .read s.cfg.keypadAddr k, .rsp (decodeKeys s.cfg k)] }

/-- R120 (d), R55 (the source's Idempotence): two `READKEYS` with no `Change` between their reads give the same mask. -/
def Obligations.TwoReadkeysWithoutChangeAgree : Prop :=
  ∀ (s : State) (rest : List Word) (ms ms' tail : List Move),
    s.ready → s.cmds = 0x40000000#32 :: 0x40000000#32 :: rest →
    s.schedule = .block :: (ms ++ .ack :: .block :: (ms' ++ .ack :: tail)) →
    quietRound ms → quietRound ms' → (∀ v, Move.change v ∉ ms') →
      ∃ t u, run (2 + ms.length) s = .next t ∧ run (4 + ms.length + ms'.length) s = .next u
        ∧ t.rsp ≠ none ∧ u.rsp = t.rsp
        ∧ u.history.countP Event.isRead = s.history.countP Event.isRead + 2

/-- R27, R28, R120 to R124: `ISPRESSED` of a `READKEYS` mask and a button's constant says whether that button was held,
in the device's own polarity, when the register was read. -/
def Obligations.PressedButtonIsAnsweredAsHeld : Prop :=
  ∀ (c : Config) (r : Half) (key : Button) (s : State),
    exec (.ispressed ((decodeKeys c r).setWidth 10) (buttonMask key)) s = .next { s with
      rsp := some (if r.getLsbD (buttonBit key) = c.keyActiveLow then 0#16 else 1#16),
      history := s.history ++ [.rsp (if r.getLsbD (buttonBit key) = c.keyActiveLow then 0#16 else 1#16)] }

/-! ### Waits that go on, and when they end -/

/-- R107, R170: a display that stands still outside the awaited region: over any rounds of polls without an `Advance`,
however many, the wait is where it was, with one read for each poll and no response. There is no timeout. -/
def Obligations.HaltedDisplayKeepsTheWaitPolling : Prop :=
  ∀ (s : State) (plan : List (List Move)) (tail : List Move), s.live → quietPlan plan →
    (∀ ms ∈ plan, Move.advance ∉ ms) →
    (s.seq = .pollBlank ∧ s.vcount.toNat < s.cfg.blankThreshold.toNat)
      ∨ (s.seq = .pollDraw ∧ s.cfg.blankThreshold.toNat ≤ s.vcount.toNat) →
    s.schedule = pollPlan plan ++ tail →
      ∃ t, run (pollPlan plan).length s = .next t
        ∧ t.seq = s.seq ∧ t.chain = s.chain ∧ t.phase = s.phase ∧ t.fault = none ∧ t.vcount = s.vcount
        ∧ t.cfg = s.cfg ∧ t.schedule = tail ∧ t.cmds = s.cmds ++ offeredByAll plan.flatten
        ∧ t.history = s.history ++ List.replicate plan.length (.read s.cfg.timingAddr s.vcount)

/-- R107: nothing ends a wait but the sample it waits for, or reset; and no command is accepted while it runs. -/
def Obligations.OnlyTheSampleOrResetEndsAWait : Prop :=
  ∀ s t : State, step s = .next t → (s.seq = .pollBlank ∨ s.seq = .pollDraw) →
    (t.seq = s.seq
        ∨ (nextMove s).1 = .reset
        ∨ (s.answered ∧ s.seq = .pollBlank ∧ s.cfg.blankThreshold.toNat ≤ s.vcount.toNat)
        ∨ (s.answered ∧ s.seq = .pollDraw ∧ s.vcount.toNat < s.cfg.blankThreshold.toNat))
      ∧ ∃ es, t.history = s.history ++ es ∧ ∀ w, Event.cmd w ∉ es

/-- R165: over any quiet plan, with key changes, offers and waiting between its polls, a blank wait ends before the counter
has advanced by `LINES` since its first poll, when no stride after that poll is longer than the blanking region and the
strides add up to at least `N`. It counts lines as `Advance` does (log entry 9). -/
def Obligations.BlankWaitEndsUnderTheStrideBound : Prop :=
  ∀ (s : State) (first : List Move) (others : List (List Move)) (tail : List Move),
    s.live → s.counterInv → s.seq = .pollBlank → quietPlan (first :: others) →
    (∀ ms ∈ others, advances ms ≤ s.cfg.lines - s.cfg.blankThreshold.toNat) →
    s.cfg.blankThreshold.toNat ≤ advances others.flatten →
    s.schedule = pollPlan (first :: others) ++ tail →
      ∃ p q t, others = p ++ q ∧ advances p.flatten < s.cfg.lines
        ∧ run (pollPlan (first :: p)).length s = .next t
        ∧ t.phase = .blankPhase ∧ t.seq = (if s.chain then .pollDraw else .idle) ∧ t.chain = false
        ∧ s.cfg.blankThreshold.toNat ≤ t.vcount.toNat

/-- R165: over any quiet plan a draw wait ends, likewise, when no stride after its first poll is longer than the drawable
region and the strides add up to at least the length of the blanking region. It counts lines as `Advance` does (log
entry 9). -/
def Obligations.DrawWaitEndsUnderTheStrideBound : Prop :=
  ∀ (s : State) (first : List Move) (others : List (List Move)) (tail : List Move),
    s.live → s.counterInv → s.seq = .pollDraw → quietPlan (first :: others) →
    (∀ ms ∈ others, advances ms ≤ s.cfg.blankThreshold.toNat) →
    s.cfg.lines - s.cfg.blankThreshold.toNat ≤ advances others.flatten →
    s.schedule = pollPlan (first :: others) ++ tail →
      ∃ p q t, others = p ++ q ∧ advances p.flatten < s.cfg.lines
        ∧ run (pollPlan (first :: p)).length s = .next t
        ∧ t.phase = .drawPhase ∧ t.seq = .idle ∧ t.rsp ≠ none
        ∧ t.vcount.toNat < s.cfg.blankThreshold.toNat

/-! ### Invariants and whole-machine rules -/

/-- R22, R64, R105, R144: the agreement of the block's elements and outputs is kept by every step. -/
def Obligations.EveryStepKeepsTheControlInvariant : Prop :=
  ∀ s t : State, s.controlInv → step s = .next t → t.controlInv

/-- R26, R147: every step keeps the counter within `0 .. LINES-1`. -/
def Obligations.EveryStepKeepsTheCounterInRange : Prop :=
  ∀ s t : State, s.counterInv → step s = .next t → t.counterInv

/-- R105, R143 (e), R171: in the history every `Tick` is followed at once by `Rsp(0x0001)`; every step keeps this. -/
def Obligations.EveryStepKeepsTicksReported : Prop :=
  ∀ s t : State, ticksReported s.history = true → step s = .next t → ticksReported t.history = true

/-- R88: exactly one response for each accepted legal command since the last reset, but for the one in progress; every
step keeps this. -/
def Obligations.EveryStepKeepsOneResponsePerCommand : Prop :=
  ∀ s t : State, s.responsesBalanced → step s = .next t → t.responsesBalanced

/-- R11, R88, R24: a run from an idle block with an empty history and a finite sequence of words, no more offered and no
reset: if all words are legal the run of that many commands is over exactly when all are accepted and the block is idle
again; with an illegal word among them it is never over. -/
def Obligations.AnIdleRunIsOverAtItsCommandCount : Prop :=
  ∀ (s t : State) (ms tail : List Move),
    s.seq = .idle → s.fault = none → s.history = [] → s.schedule = ms ++ tail → Move.reset ∉ ms →
    (∀ w, Move.offer w ∉ ms) → run ms.length s = .next t →
      ((∀ w ∈ s.cmds, legalWord w = true) → (t.over s.cmds.length ↔ t.seq = .idle ∧ t.cmds = []))
        ∧ ((∃ w ∈ s.cmds, legalWord w = false) → ¬ t.over s.cmds.length)

/-- The four invariants hold right after power-on. For the counter this rests on the value 0 the model chose for `VCOUNT`
(log entry 3). -/
def Obligations.TheInvariantsHoldAtReset : Prop :=
  State.reset.controlInv ∧ State.reset.counterInv ∧ ticksReported State.reset.history = true
    ∧ State.reset.responsesBalanced

/-- R108, R21: a step that accepts a word or reads the bus moves `SEQ` and `CHAIN` along a row of the table, reset puts them
at `IDLE, 0`, and no other step moves them. -/
def Obligations.ControlMovesOnlyAlongTheTable : Prop :=
  ∀ s t : State, s.controlInv → step s = .next t →
    (s.accepting ∨ s.answered → (s.control, t.control) ∈ controlEdges)
      ∧ ((nextMove s).1 = .reset → t.control = (.idle, false))
      ∧ (¬ s.accepting → ¬ s.answered → (nextMove s).1 ≠ .reset → t.control = s.control)

/-- R23: what `PHASE` is after any step, exactly; it never decides where the sequencer goes; and it is the output `phase`. -/
def Obligations.PhaseRecordsTheWaitThatLastCompleted : Prop :=
  ∀ s t : State, step s = .next t →
    t.phase =
        (if (nextMove s).1 = .reset then .drawPhase
        else if s.answered ∧ s.seq = .pollBlank ∧ s.cfg.blankThreshold.toNat ≤ s.vcount.toNat then
          .blankPhase
        else if s.answered ∧ s.seq = .pollDraw ∧ s.vcount.toNat < s.cfg.blankThreshold.toNat then
          .drawPhase
        else s.phase)
      ∧ (∀ p : Phase, ∃ u, step { s with phase := p } = .next u ∧ u.control = t.control ∧ u.vcount = t.vcount
          ∧ u.cmds = t.cmds ∧ u.fault = t.fault ∧ (u.rsp = none ↔ t.rsp = none)
          ∧ u.history.filter Event.isRead = t.history.filter Event.isRead)
      ∧ (t.phaseOut = 1#1 ↔ t.phase = .blankPhase)

/-- R105: a step emits a tick exactly when it is the poll that completes a draw wait with `PHASE = BlankPhase`; then it
emits one, with the response `0x0001` in the same step. -/
def Obligations.TickOnlyFromACompletingDrawPoll : Prop :=
  ∀ s t : State, step s = .next t →
    (t.tick = true ↔
        s.answered ∧ s.seq = .pollDraw ∧ s.phase = .blankPhase
          ∧ s.vcount.toNat < s.cfg.blankThreshold.toNat)
      ∧ t.history.countP Event.isTick = s.history.countP Event.isTick + (if t.tick then 1 else 0)
      ∧ (t.tick = true → t.rsp = some 1#16)

/-- R50, R29: the reads a step puts on the bus: one for each `Poll`, of the display-timing register, one for each
`KeyRead`, of the keypad register, each returning the register's current value, and none otherwise; the block writes
neither register, and no byte of the bus; `bus_we` is 0 and `bus_size` a halfword, always. -/
def Obligations.BusReadsAreOfTheTwoRegisters : Prop :=
  (∀ s t : State, step s = .next t → ∃ es, t.history = s.history ++ es
    ∧ es.filter Event.isRead =
        (if ¬ s.answered then []
        else match s.seq with
          | .idle => []
          | .pollBlank => [.read s.cfg.timingAddr s.vcount]
          | .pollDraw => [.read s.cfg.timingAddr s.vcount]
          | .readKey => [.read s.cfg.keypadAddr s.keyraw])
    ∧ ((nextMove s).1 = .block ∨ (nextMove s).1 = .ack →
        t.vcount = s.vcount ∧ t.keyraw = s.keyraw ∧ ∀ a, t.busByte a = s.busByte a))
    ∧ busWe = 0#1 ∧ busSize = 0b01#2

/-- R9, R147, R148, R162: only the Display writes `VCOUNT` and only as `Advance` says, only the Keypad writes `KEYRAW`,
and nothing writes the configuration; every byte of the bus is as before a step of any other agent. -/
def Obligations.OnlyTheDevicesWriteTheirRegisters : Prop :=
  ∀ s t : State, step s = .next t →
    t.cfg = s.cfg
      ∧ t.vcount.toNat =
          (if (nextMove s).1 = .advance then (s.vcount.toNat + 1) % s.cfg.lines else s.vcount.toNat)
      ∧ (∀ v, (nextMove s).1 = .change v → t.keyraw = v)
      ∧ ((∀ v, (nextMove s).1 ≠ .change v) → t.keyraw = s.keyraw)
      ∧ ((nextMove s).1 ≠ .advance → (∀ v, (nextMove s).1 ≠ .change v) → ∀ a, t.busByte a = s.busByte a)

/-- R52: in a valid configuration the bus bytes of each register, lower address first, make up its halfword. The byte
order is general knowledge of the spec's, not the source's. -/
def Obligations.BusHalfwordsAreLittleEndian : Prop :=
  ∀ s : State, configRefusal s.cfg = none →
    s.busHalf s.cfg.timingAddr.toNat = some s.vcount
      ∧ s.busHalf s.cfg.keypadAddr.toNat = some s.keyraw
      ∧ s.busByte s.cfg.timingAddr.toNat = some (s.vcount.setWidth 8)
      ∧ s.busByte s.cfg.keypadAddr.toNat = some (s.keyraw.setWidth 8)

/-- R31, R20: no step reads the history or the pulses of the step before: with another past, the same outcome, and the
same events appended. -/
def Obligations.NoStepReadsThePast : Prop :=
  ∀ (s : State) (h : List Event) (r : Option Half) (b : Bool),
    (∀ t, step s = .next t → ∃ es, t.history = s.history ++ es
        ∧ step (s.withPast h r b) = .next { t with history := h ++ es })
      ∧ (∀ f, step s = .fault f → step (s.withPast h r b) = .fault f)
      ∧ (∀ q, step s = .refused q → step (s.withPast h r b) = .refused q)

/-- R64, R30 (b), R161: the handshake of a read. `bus_req` rises by the block's move in a state that reads, and in no other
way; it is held with a stable address through every move but an acknowledge and reset, and falls with either; the address
is the timing register's in the polling states and the keypad's in `READ_KEY`; a read is made only while a request stands,
in the step that acknowledges it; and an acknowledge for which none stands is ignored. -/
def Obligations.BusRequestIsHeldUntilAnswered : Prop :=
  ∀ s t : State, s.controlInv → step s = .next t →
    (s.busReq = true → (nextMove s).1 ≠ .ack → (nextMove s).1 ≠ .reset →
        t.busReq = true ∧ t.busAddr = s.busAddr)
      ∧ (s.busReq = true → (nextMove s).1 = .ack ∨ (nextMove s).1 = .reset → t.busReq = false)
      ∧ (s.busReq = false → (t.busReq = true ↔ (nextMove s).1 = .block ∧ s.seq ≠ .idle))
      ∧ (t.busReq = true →
          (t.seq = .readKey → t.busAddr = some t.cfg.keypadAddr)
            ∧ (t.seq = .pollBlank ∨ t.seq = .pollDraw → t.busAddr = some t.cfg.timingAddr) ∧ t.seq ≠ .idle)
      ∧ (t.history.countP Event.isRead =
          s.history.countP Event.isRead + (if s.busReq = true ∧ (nextMove s).1 = .ack then 1 else 0))
      ∧ ((nextMove s).1 = .ack → s.busReq = false → t = (nextMove s).2.dropPulses)

/-! ### Reset and configuration -/

/-- R160, R161, R162: a reset, from any state of a valid configuration, a fault and a command in progress included: every
element of the block and every output at its reset level, `Reset` appended, no response, no tick, and the configuration,
the devices and the client's words as they were; power-on gives the same levels. That the client's words stay is the
model's choice (log entry 15). -/
def Obligations.ResetTakesEveryElementToItsResetValue : Prop :=
  (∀ (s : State) (ms : List Move), configRefusal s.cfg = none → s.schedule = .reset :: ms →
    step s = .next { s with
      seq := .idle, chain := false, phase := .drawPhase, fault := none, busReq := false, rsp := none, tick := false,
      schedule := ms, history := s.history ++ [.reset] })
    ∧ (∀ s t : State, (nextMove s).1 = .reset → step s = .next t →
        t.cmdReady = true ∧ t.busy = false ∧ t.phaseOut = 0#1 ∧ t.rspValid = false ∧ t.tick = false
          ∧ t.busReq = false ∧ t.busAddr = none ∧ t.faultBit = false)
    ∧ (State.reset.seq = .idle ∧ State.reset.chain = false ∧ State.reset.phase = .drawPhase ∧ State.reset.fault = none
      ∧ State.reset.busReq = false ∧ State.reset.rsp = none ∧ State.reset.tick = false)

/-- R33: the state after power-on, element by element. -/
def Obligations.PowerOnStateIsTheResetState : Prop :=
  State.reset.seq = .idle ∧ State.reset.chain = false ∧ State.reset.phase = .drawPhase ∧ State.reset.fault = none
    ∧ State.reset.cmdReady = true ∧ State.reset.busy = false ∧ State.reset.phaseOut = 0#1
    ∧ State.reset.rspValid = false ∧ State.reset.tick = false ∧ State.reset.busReq = false
    ∧ State.reset.history = [] ∧ busWe = 0#1 ∧ busSize = 0b01#2

/-- R6, R66, R141: a step is refused exactly when the configuration fails one of the conditions, and then always as
`ConfigRefused`. That the platform's map is two Booleans of the configuration is the model's choice (log entry 17). -/
def Obligations.RefusedExactlyWhenTheConfigurationIsInvalid : Prop :=
  ∀ s : State,
    ((∃ q, step s = .refused q) ↔
        ¬ (s.cfg.timingAddr.getLsbD 0 = false ∧ s.cfg.keypadAddr.getLsbD 0 = false
          ∧ s.cfg.timingAddr ≠ s.cfg.keypadAddr
          ∧ 2 ≤ s.cfg.lines ∧ s.cfg.lines ≤ 65536
          ∧ 1 ≤ s.cfg.blankThreshold.toNat ∧ s.cfg.blankThreshold.toNat ≤ s.cfg.lines - 1
          ∧ s.cfg.timingMapped = true ∧ s.cfg.keypadMapped = true))
      ∧ (∀ q, step s = .refused q → ∃ r, q = .configRefused r)

/-- R141: the reason a refusal names is true of the configuration. -/
def Obligations.TheRefusalReasonIsTrue : Prop :=
  ∀ (s : State) (r : ConfigReason), step s = .refused (.configRefused r) →
    match r with
    | .timingMisaligned => s.cfg.timingAddr.getLsbD 0 = true
    | .keypadMisaligned => s.cfg.keypadAddr.getLsbD 0 = true
    | .sameAddress => s.cfg.timingAddr = s.cfg.keypadAddr
    | .linesOutOfRange => s.cfg.lines < 2 ∨ 65536 < s.cfg.lines
    | .thresholdOutOfRange =>
        s.cfg.blankThreshold.toNat = 0 ∨ s.cfg.lines ≤ s.cfg.blankThreshold.toNat
    | .unmapped => s.cfg.timingMapped = false ∨ s.cfg.keypadMapped = false

/-! ### A bus that does not answer, and a fair one -/

/-- R65, R64: over any moves without an acknowledge and without reset, a block whose request stands is stuck where it is,
with `bus_req = 1`, the same address, no read and no response; the devices and the client go on. -/
def Obligations.UnansweredBusLeavesTheBlockStuck : Prop :=
  ∀ (s : State) (ms tail : List Move), s.live → s.seq ≠ .idle → s.busReq = true → s.schedule = ms ++ tail →
    Move.ack ∉ ms → Move.reset ∉ ms →
      ∃ t, run ms.length s = .next t
        ∧ t.control = s.control ∧ t.phase = s.phase ∧ t.fault = none ∧ t.busReq = true ∧ t.busAddr = s.busAddr
        ∧ t.history = s.history ∧ t.cmds = s.cmds ++ offeredByAll ms
        ∧ t.vcount = countAfterAll s.cfg s.vcount ms ∧ t.keyraw = keysAfterAll s.keyraw ms

/-- R172, R165: under the four assumptions, and without a reset, a command in progress gets its response: the block is idle
again with a response out, whatever the Keypad and the client do. It counts lines as `Advance` does (log entry 9); how
the assumptions are put is log entry 19. -/
def Obligations.FairScheduleEndsTheCommand : Prop :=
  ∀ (s : State) (sched : Nat → Move), s.live → s.counterInv → s.seq ≠ .idle →
    FairSchedule sched s → (∀ k, sched k ≠ .reset) →
      ∃ k t, along sched s k = .next t ∧ t.seq = .idle ∧ t.rsp ≠ none
end

