-- ==== Sys2Proof/Laws/Decode.lean ====
section
/-! SUPPORT. The fields of a laid-out command word (R81), the word as the layout of its own fields, and the masks of R83
as conditions on fields. -/

namespace Sys2Proof

@[simp] theorem fieldOp_commandWord (op : BitVec 4) (a b : Mask10) : fieldOp (commandWord op a b) = op := by
  ext i hi
  simp [fieldOp, commandWord, BitVec.getLsbD_eq_getElem, hi, BitVec.getLsbD_of_ge a (28 + i - 16) (by omega),
    BitVec.getLsbD_of_ge b (28 + i) (by omega), show 28 + i < 32 by omega]

@[simp] theorem fieldZ1_commandWord (op : BitVec 4) (a b : Mask10) : fieldZ1 (commandWord op a b) = 0#2 := by
  ext i hi
  simp [fieldZ1, commandWord, BitVec.getLsbD_of_ge a (26 + i - 16) (by omega),
    BitVec.getLsbD_of_ge b (26 + i) (by omega)]
  omega

@[simp] theorem fieldA_commandWord (op : BitVec 4) (a b : Mask10) : fieldA (commandWord op a b) = a := by
  ext i hi
  simp [fieldA, commandWord, BitVec.getLsbD_eq_getElem, hi, BitVec.getLsbD_of_ge b (16 + i) (by omega),
    show 16 + i < 32 by omega, show 16 + i < 28 by omega]

@[simp] theorem fieldZ2_commandWord (op : BitVec 4) (a b : Mask10) : fieldZ2 (commandWord op a b) = 0#6 := by
  ext i hi
  simp [fieldZ2, commandWord]
  omega

@[simp] theorem fieldB_commandWord (op : BitVec 4) (a b : Mask10) : fieldB (commandWord op a b) = b := by
  ext i hi
  simp [fieldB, commandWord, BitVec.getLsbD_eq_getElem, hi, show i < 28 by omega, show i < 16 by omega,
    show i < 32 by omega]

/-- Two words with the same five fields are the same word (R81). -/
theorem word_ext_fields (v w : Word) (hop : fieldOp v = fieldOp w) (hz1 : fieldZ1 v = fieldZ1 w)
    (ha : fieldA v = fieldA w) (hz2 : fieldZ2 v = fieldZ2 w) (hb : fieldB v = fieldB w) : v = w := by
  apply BitVec.eq_of_getLsbD_eq
  intro i hi
  have field (n len : Nat) (h : v.extractLsb' n len = w.extractLsb' n len) (h1 : n ≤ i) (h2 : i < n + len) :
      v.getLsbD i = w.getLsbD i := by
    have := congrArg (fun x => x.getLsbD (i - n)) h
    simpa [show i - n < len by omega, show n + (i - n) = i by omega] using this
  by_cases h1 : i < 10
  · exact field 0 10 hb (by omega) (by omega)
  by_cases h2 : i < 16
  · exact field 10 6 hz2 (by omega) (by omega)
  by_cases h3 : i < 26
  · exact field 16 10 ha (by omega) (by omega)
  by_cases h4 : i < 28
  · exact field 26 2 hz1 (by omega) (by omega)
  · exact field 28 4 hop (by omega) (by omega)

/-- A word is the layout of its fields once its reserved fields are zero (R81). -/
theorem commandWord_fields (w : Word) (h1 : fieldZ1 w = 0#2) (h2 : fieldZ2 w = 0#6) :
    commandWord (fieldOp w) (fieldA w) (fieldB w) = w :=
  word_ext_fields _ _ (by simp) (by simp [h1]) (by simp) (by simp [h2]) (by simp)

theorem keepAll4 (x : BitVec 4) : x &&& 15#4 = x := by
  rw [show 15#4 = BitVec.allOnes 4 by decide, BitVec.and_allOnes]

theorem keepAll2 (x : BitVec 2) : x &&& 3#2 = x := by
  rw [show 3#2 = BitVec.allOnes 2 by decide, BitVec.and_allOnes]

theorem keepAll6 (x : BitVec 6) : x &&& 63#6 = x := by
  rw [show 63#6 = BitVec.allOnes 6 by decide, BitVec.and_allOnes]

/-- The mask of the `ISPRESSED` row keeps `OP`, `Z1` and `Z2` (R83). -/
theorem ispressed_mask_iff (w : Word) :
    w &&& 0xFC00FC00#32 = 0x50000000#32 ↔ fieldOp w = 0x5#4 ∧ fieldZ1 w = 0#2 ∧ fieldZ2 w = 0#6 := by
  constructor
  · intro h
    have f1 := congrArg fieldOp h
    have f2 := congrArg fieldZ1 h
    have f3 := congrArg fieldZ2 h
    simp only [fieldOp, fieldZ1, fieldZ2, BitVec.extractLsb'_and] at f1 f2 f3
    refine ⟨?_, ?_, ?_⟩
    · simpa [fieldOp, keepAll4] using f1
    · simpa [fieldZ1, keepAll2] using f2
    · simpa [fieldZ2, keepAll6] using f3
  · rintro ⟨h1, h2, h3⟩
    apply word_ext_fields
    · have : fieldOp (w &&& 0xFC00FC00#32) = fieldOp w &&& 0xF#4 := by simp [fieldOp, BitVec.extractLsb'_and]
      rw [this, h1]; decide
    · have : fieldZ1 (w &&& 0xFC00FC00#32) = fieldZ1 w &&& 0x3#2 := by simp [fieldZ1, BitVec.extractLsb'_and]
      rw [this, h2]; decide
    · have : fieldA (w &&& 0xFC00FC00#32) = fieldA w &&& 0#10 := by simp [fieldA, BitVec.extractLsb'_and]
      rw [this, BitVec.and_zero]; decide
    · have : fieldZ2 (w &&& 0xFC00FC00#32) = fieldZ2 w &&& 0x3F#6 := by simp [fieldZ2, BitVec.extractLsb'_and]
      rw [this, h3]; decide
    · have : fieldB (w &&& 0xFC00FC00#32) = fieldB w &&& 0#10 := by simp [fieldB, BitVec.extractLsb'_and]
      rw [this, BitVec.and_zero]; decide

/-- The decoder, by fields in place of masks (R83, R84). -/
theorem decode_by_fields (w : Word) :
    decode w =
      if fieldZ1 w = 0#2 ∧ fieldZ2 w = 0#6 then
        if fieldOp w = 0x5#4 then .ok (.ispressed (fieldA w) (fieldB w))
        else if w = 0x10000000#32 then .ok .waitblank
        else if w = 0x20000000#32 then .ok .waitdraw
        else if w = 0x30000000#32 then .ok .sync
        else if w = 0x40000000#32 then .ok .readkeys
        else .error (illegalReason w)
      else .error (illegalReason w) := by
  have full : w &&& 0xFFFFFFFF#32 = w := by
    have : (0xFFFFFFFF#32 : Word) = BitVec.allOnes 32 := by decide
    rw [this, BitVec.and_allOnes]
  simp only [decode, full, ispressed_mask_iff]
  by_cases h1 : w = 0x10000000#32
  · subst h1; decide
  by_cases h2 : w = 0x20000000#32
  · subst h2; decide
  by_cases h3 : w = 0x30000000#32
  · subst h3; decide
  by_cases h4 : w = 0x40000000#32
  · subst h4; decide
  simp only [h1, h2, h3, h4, if_false]
  by_cases hz : fieldZ1 w = 0#2 ∧ fieldZ2 w = 0#6
  · simp [hz]
  · have : ¬ (fieldOp w = 0x5#4 ∧ fieldZ1 w = 0#2 ∧ fieldZ2 w = 0#6) := fun h => hz h.2
    simp only [if_neg hz, if_neg this]

/-- What a word decodes to when it decodes: one of the five rows of R83. -/
theorem decode_ok_cases {w : Word} {i : Instr} (h : decode w = .ok i) :
    (w = 0x10000000#32 ∧ i = .waitblank) ∨ (w = 0x20000000#32 ∧ i = .waitdraw) ∨
    (w = 0x30000000#32 ∧ i = .sync) ∨ (w = 0x40000000#32 ∧ i = .readkeys) ∨
    (fieldOp w = 0x5#4 ∧ fieldZ1 w = 0#2 ∧ fieldZ2 w = 0#6 ∧ i = .ispressed (fieldA w) (fieldB w)) := by
  rw [decode_by_fields] at h
  split at h
  · split at h
    · rename_i hz hop
      exact .inr (.inr (.inr (.inr ⟨hop, hz.1, hz.2, (Except.ok.inj h).symm⟩)))
    · split at h
      · exact .inl ⟨‹_›, (Except.ok.inj h).symm⟩
      · split at h
        · exact .inr (.inl ⟨‹_›, (Except.ok.inj h).symm⟩)
        · split at h
          · exact .inr (.inr (.inl ⟨‹_›, (Except.ok.inj h).symm⟩))
          · split at h
            · exact .inr (.inr (.inr (.inl ⟨‹_›, (Except.ok.inj h).symm⟩)))
            · cases h
  · cases h

end Sys2Proof
end

