-- ==== Sys2Proof/Laws/State.lean ====
section
/-! SUPPORT. What each named update of State leaves in each field (Machine/Ops.lean): one lemma per field per update,
and the same for the compound operations, so that no later proof unfolds one. -/

namespace Sys2Proof.Machine

/-! ### setSeq -/

@[simp] theorem State.setSeq_cfg (q : Seq) (s : State) : (s.setSeq q).cfg = s.cfg := rfl
@[simp] theorem State.setSeq_seq (q : Seq) (s : State) : (s.setSeq q).seq = q := rfl
@[simp] theorem State.setSeq_chain (q : Seq) (s : State) : (s.setSeq q).chain = s.chain := rfl
@[simp] theorem State.setSeq_phase (q : Seq) (s : State) : (s.setSeq q).phase = s.phase := rfl
@[simp] theorem State.setSeq_fault (q : Seq) (s : State) : (s.setSeq q).fault = s.fault := rfl
@[simp] theorem State.setSeq_busReq (q : Seq) (s : State) : (s.setSeq q).busReq = s.busReq := rfl
@[simp] theorem State.setSeq_rsp (q : Seq) (s : State) : (s.setSeq q).rsp = s.rsp := rfl
@[simp] theorem State.setSeq_tick (q : Seq) (s : State) : (s.setSeq q).tick = s.tick := rfl
@[simp] theorem State.setSeq_vcount (q : Seq) (s : State) : (s.setSeq q).vcount = s.vcount := rfl
@[simp] theorem State.setSeq_keyraw (q : Seq) (s : State) : (s.setSeq q).keyraw = s.keyraw := rfl
@[simp] theorem State.setSeq_cmds (q : Seq) (s : State) : (s.setSeq q).cmds = s.cmds := rfl
@[simp] theorem State.setSeq_schedule (q : Seq) (s : State) : (s.setSeq q).schedule = s.schedule := rfl
@[simp] theorem State.setSeq_drawn (q : Seq) (s : State) : (s.setSeq q).drawn = s.drawn := rfl
@[simp] theorem State.setSeq_history (q : Seq) (s : State) : (s.setSeq q).history = s.history := rfl

/-! ### setChain -/

@[simp] theorem State.setChain_cfg (b : Bool) (s : State) : (s.setChain b).cfg = s.cfg := rfl
@[simp] theorem State.setChain_seq (b : Bool) (s : State) : (s.setChain b).seq = s.seq := rfl
@[simp] theorem State.setChain_chain (b : Bool) (s : State) : (s.setChain b).chain = b := rfl
@[simp] theorem State.setChain_phase (b : Bool) (s : State) : (s.setChain b).phase = s.phase := rfl
@[simp] theorem State.setChain_fault (b : Bool) (s : State) : (s.setChain b).fault = s.fault := rfl
@[simp] theorem State.setChain_busReq (b : Bool) (s : State) : (s.setChain b).busReq = s.busReq := rfl
@[simp] theorem State.setChain_rsp (b : Bool) (s : State) : (s.setChain b).rsp = s.rsp := rfl
@[simp] theorem State.setChain_tick (b : Bool) (s : State) : (s.setChain b).tick = s.tick := rfl
@[simp] theorem State.setChain_vcount (b : Bool) (s : State) : (s.setChain b).vcount = s.vcount := rfl
@[simp] theorem State.setChain_keyraw (b : Bool) (s : State) : (s.setChain b).keyraw = s.keyraw := rfl
@[simp] theorem State.setChain_cmds (b : Bool) (s : State) : (s.setChain b).cmds = s.cmds := rfl
@[simp] theorem State.setChain_schedule (b : Bool) (s : State) : (s.setChain b).schedule = s.schedule := rfl
@[simp] theorem State.setChain_drawn (b : Bool) (s : State) : (s.setChain b).drawn = s.drawn := rfl
@[simp] theorem State.setChain_history (b : Bool) (s : State) : (s.setChain b).history = s.history := rfl

/-! ### setPhase -/

@[simp] theorem State.setPhase_cfg (p : Phase) (s : State) : (s.setPhase p).cfg = s.cfg := rfl
@[simp] theorem State.setPhase_seq (p : Phase) (s : State) : (s.setPhase p).seq = s.seq := rfl
@[simp] theorem State.setPhase_chain (p : Phase) (s : State) : (s.setPhase p).chain = s.chain := rfl
@[simp] theorem State.setPhase_phase (p : Phase) (s : State) : (s.setPhase p).phase = p := rfl
@[simp] theorem State.setPhase_fault (p : Phase) (s : State) : (s.setPhase p).fault = s.fault := rfl
@[simp] theorem State.setPhase_busReq (p : Phase) (s : State) : (s.setPhase p).busReq = s.busReq := rfl
@[simp] theorem State.setPhase_rsp (p : Phase) (s : State) : (s.setPhase p).rsp = s.rsp := rfl
@[simp] theorem State.setPhase_tick (p : Phase) (s : State) : (s.setPhase p).tick = s.tick := rfl
@[simp] theorem State.setPhase_vcount (p : Phase) (s : State) : (s.setPhase p).vcount = s.vcount := rfl
@[simp] theorem State.setPhase_keyraw (p : Phase) (s : State) : (s.setPhase p).keyraw = s.keyraw := rfl
@[simp] theorem State.setPhase_cmds (p : Phase) (s : State) : (s.setPhase p).cmds = s.cmds := rfl
@[simp] theorem State.setPhase_schedule (p : Phase) (s : State) : (s.setPhase p).schedule = s.schedule := rfl
@[simp] theorem State.setPhase_drawn (p : Phase) (s : State) : (s.setPhase p).drawn = s.drawn := rfl
@[simp] theorem State.setPhase_history (p : Phase) (s : State) : (s.setPhase p).history = s.history := rfl

/-! ### setFault -/

@[simp] theorem State.setFault_cfg (f : Option Fault) (s : State) : (s.setFault f).cfg = s.cfg := rfl
@[simp] theorem State.setFault_seq (f : Option Fault) (s : State) : (s.setFault f).seq = s.seq := rfl
@[simp] theorem State.setFault_chain (f : Option Fault) (s : State) : (s.setFault f).chain = s.chain := rfl
@[simp] theorem State.setFault_phase (f : Option Fault) (s : State) : (s.setFault f).phase = s.phase := rfl
@[simp] theorem State.setFault_fault (f : Option Fault) (s : State) : (s.setFault f).fault = f := rfl
@[simp] theorem State.setFault_busReq (f : Option Fault) (s : State) : (s.setFault f).busReq = s.busReq := rfl
@[simp] theorem State.setFault_rsp (f : Option Fault) (s : State) : (s.setFault f).rsp = s.rsp := rfl
@[simp] theorem State.setFault_tick (f : Option Fault) (s : State) : (s.setFault f).tick = s.tick := rfl
@[simp] theorem State.setFault_vcount (f : Option Fault) (s : State) : (s.setFault f).vcount = s.vcount := rfl
@[simp] theorem State.setFault_keyraw (f : Option Fault) (s : State) : (s.setFault f).keyraw = s.keyraw := rfl
@[simp] theorem State.setFault_cmds (f : Option Fault) (s : State) : (s.setFault f).cmds = s.cmds := rfl
@[simp] theorem State.setFault_schedule (f : Option Fault) (s : State) : (s.setFault f).schedule = s.schedule := rfl
@[simp] theorem State.setFault_drawn (f : Option Fault) (s : State) : (s.setFault f).drawn = s.drawn := rfl
@[simp] theorem State.setFault_history (f : Option Fault) (s : State) : (s.setFault f).history = s.history := rfl

/-! ### setBusReq -/

@[simp] theorem State.setBusReq_cfg (b : Bool) (s : State) : (s.setBusReq b).cfg = s.cfg := rfl
@[simp] theorem State.setBusReq_seq (b : Bool) (s : State) : (s.setBusReq b).seq = s.seq := rfl
@[simp] theorem State.setBusReq_chain (b : Bool) (s : State) : (s.setBusReq b).chain = s.chain := rfl
@[simp] theorem State.setBusReq_phase (b : Bool) (s : State) : (s.setBusReq b).phase = s.phase := rfl
@[simp] theorem State.setBusReq_fault (b : Bool) (s : State) : (s.setBusReq b).fault = s.fault := rfl
@[simp] theorem State.setBusReq_busReq (b : Bool) (s : State) : (s.setBusReq b).busReq = b := rfl
@[simp] theorem State.setBusReq_rsp (b : Bool) (s : State) : (s.setBusReq b).rsp = s.rsp := rfl
@[simp] theorem State.setBusReq_tick (b : Bool) (s : State) : (s.setBusReq b).tick = s.tick := rfl
@[simp] theorem State.setBusReq_vcount (b : Bool) (s : State) : (s.setBusReq b).vcount = s.vcount := rfl
@[simp] theorem State.setBusReq_keyraw (b : Bool) (s : State) : (s.setBusReq b).keyraw = s.keyraw := rfl
@[simp] theorem State.setBusReq_cmds (b : Bool) (s : State) : (s.setBusReq b).cmds = s.cmds := rfl
@[simp] theorem State.setBusReq_schedule (b : Bool) (s : State) : (s.setBusReq b).schedule = s.schedule := rfl
@[simp] theorem State.setBusReq_drawn (b : Bool) (s : State) : (s.setBusReq b).drawn = s.drawn := rfl
@[simp] theorem State.setBusReq_history (b : Bool) (s : State) : (s.setBusReq b).history = s.history := rfl

/-! ### setRsp -/

@[simp] theorem State.setRsp_cfg (r : Option Half) (s : State) : (s.setRsp r).cfg = s.cfg := rfl
@[simp] theorem State.setRsp_seq (r : Option Half) (s : State) : (s.setRsp r).seq = s.seq := rfl
@[simp] theorem State.setRsp_chain (r : Option Half) (s : State) : (s.setRsp r).chain = s.chain := rfl
@[simp] theorem State.setRsp_phase (r : Option Half) (s : State) : (s.setRsp r).phase = s.phase := rfl
@[simp] theorem State.setRsp_fault (r : Option Half) (s : State) : (s.setRsp r).fault = s.fault := rfl
@[simp] theorem State.setRsp_busReq (r : Option Half) (s : State) : (s.setRsp r).busReq = s.busReq := rfl
@[simp] theorem State.setRsp_rsp (r : Option Half) (s : State) : (s.setRsp r).rsp = r := rfl
@[simp] theorem State.setRsp_tick (r : Option Half) (s : State) : (s.setRsp r).tick = s.tick := rfl
@[simp] theorem State.setRsp_vcount (r : Option Half) (s : State) : (s.setRsp r).vcount = s.vcount := rfl
@[simp] theorem State.setRsp_keyraw (r : Option Half) (s : State) : (s.setRsp r).keyraw = s.keyraw := rfl
@[simp] theorem State.setRsp_cmds (r : Option Half) (s : State) : (s.setRsp r).cmds = s.cmds := rfl
@[simp] theorem State.setRsp_schedule (r : Option Half) (s : State) : (s.setRsp r).schedule = s.schedule := rfl
@[simp] theorem State.setRsp_drawn (r : Option Half) (s : State) : (s.setRsp r).drawn = s.drawn := rfl
@[simp] theorem State.setRsp_history (r : Option Half) (s : State) : (s.setRsp r).history = s.history := rfl

/-! ### setTick -/

@[simp] theorem State.setTick_cfg (b : Bool) (s : State) : (s.setTick b).cfg = s.cfg := rfl
@[simp] theorem State.setTick_seq (b : Bool) (s : State) : (s.setTick b).seq = s.seq := rfl
@[simp] theorem State.setTick_chain (b : Bool) (s : State) : (s.setTick b).chain = s.chain := rfl
@[simp] theorem State.setTick_phase (b : Bool) (s : State) : (s.setTick b).phase = s.phase := rfl
@[simp] theorem State.setTick_fault (b : Bool) (s : State) : (s.setTick b).fault = s.fault := rfl
@[simp] theorem State.setTick_busReq (b : Bool) (s : State) : (s.setTick b).busReq = s.busReq := rfl
@[simp] theorem State.setTick_rsp (b : Bool) (s : State) : (s.setTick b).rsp = s.rsp := rfl
@[simp] theorem State.setTick_tick (b : Bool) (s : State) : (s.setTick b).tick = b := rfl
@[simp] theorem State.setTick_vcount (b : Bool) (s : State) : (s.setTick b).vcount = s.vcount := rfl
@[simp] theorem State.setTick_keyraw (b : Bool) (s : State) : (s.setTick b).keyraw = s.keyraw := rfl
@[simp] theorem State.setTick_cmds (b : Bool) (s : State) : (s.setTick b).cmds = s.cmds := rfl
@[simp] theorem State.setTick_schedule (b : Bool) (s : State) : (s.setTick b).schedule = s.schedule := rfl
@[simp] theorem State.setTick_drawn (b : Bool) (s : State) : (s.setTick b).drawn = s.drawn := rfl
@[simp] theorem State.setTick_history (b : Bool) (s : State) : (s.setTick b).history = s.history := rfl

/-! ### setVcount -/

@[simp] theorem State.setVcount_cfg (v : Half) (s : State) : (s.setVcount v).cfg = s.cfg := rfl
@[simp] theorem State.setVcount_seq (v : Half) (s : State) : (s.setVcount v).seq = s.seq := rfl
@[simp] theorem State.setVcount_chain (v : Half) (s : State) : (s.setVcount v).chain = s.chain := rfl
@[simp] theorem State.setVcount_phase (v : Half) (s : State) : (s.setVcount v).phase = s.phase := rfl
@[simp] theorem State.setVcount_fault (v : Half) (s : State) : (s.setVcount v).fault = s.fault := rfl
@[simp] theorem State.setVcount_busReq (v : Half) (s : State) : (s.setVcount v).busReq = s.busReq := rfl
@[simp] theorem State.setVcount_rsp (v : Half) (s : State) : (s.setVcount v).rsp = s.rsp := rfl
@[simp] theorem State.setVcount_tick (v : Half) (s : State) : (s.setVcount v).tick = s.tick := rfl
@[simp] theorem State.setVcount_vcount (v : Half) (s : State) : (s.setVcount v).vcount = v := rfl
@[simp] theorem State.setVcount_keyraw (v : Half) (s : State) : (s.setVcount v).keyraw = s.keyraw := rfl
@[simp] theorem State.setVcount_cmds (v : Half) (s : State) : (s.setVcount v).cmds = s.cmds := rfl
@[simp] theorem State.setVcount_schedule (v : Half) (s : State) : (s.setVcount v).schedule = s.schedule := rfl
@[simp] theorem State.setVcount_drawn (v : Half) (s : State) : (s.setVcount v).drawn = s.drawn := rfl
@[simp] theorem State.setVcount_history (v : Half) (s : State) : (s.setVcount v).history = s.history := rfl

/-! ### setKeyraw -/

@[simp] theorem State.setKeyraw_cfg (v : Half) (s : State) : (s.setKeyraw v).cfg = s.cfg := rfl
@[simp] theorem State.setKeyraw_seq (v : Half) (s : State) : (s.setKeyraw v).seq = s.seq := rfl
@[simp] theorem State.setKeyraw_chain (v : Half) (s : State) : (s.setKeyraw v).chain = s.chain := rfl
@[simp] theorem State.setKeyraw_phase (v : Half) (s : State) : (s.setKeyraw v).phase = s.phase := rfl
@[simp] theorem State.setKeyraw_fault (v : Half) (s : State) : (s.setKeyraw v).fault = s.fault := rfl
@[simp] theorem State.setKeyraw_busReq (v : Half) (s : State) : (s.setKeyraw v).busReq = s.busReq := rfl
@[simp] theorem State.setKeyraw_rsp (v : Half) (s : State) : (s.setKeyraw v).rsp = s.rsp := rfl
@[simp] theorem State.setKeyraw_tick (v : Half) (s : State) : (s.setKeyraw v).tick = s.tick := rfl
@[simp] theorem State.setKeyraw_vcount (v : Half) (s : State) : (s.setKeyraw v).vcount = s.vcount := rfl
@[simp] theorem State.setKeyraw_keyraw (v : Half) (s : State) : (s.setKeyraw v).keyraw = v := rfl
@[simp] theorem State.setKeyraw_cmds (v : Half) (s : State) : (s.setKeyraw v).cmds = s.cmds := rfl
@[simp] theorem State.setKeyraw_schedule (v : Half) (s : State) : (s.setKeyraw v).schedule = s.schedule := rfl
@[simp] theorem State.setKeyraw_drawn (v : Half) (s : State) : (s.setKeyraw v).drawn = s.drawn := rfl
@[simp] theorem State.setKeyraw_history (v : Half) (s : State) : (s.setKeyraw v).history = s.history := rfl

/-! ### setCmds -/

@[simp] theorem State.setCmds_cfg (ws : List Word) (s : State) : (s.setCmds ws).cfg = s.cfg := rfl
@[simp] theorem State.setCmds_seq (ws : List Word) (s : State) : (s.setCmds ws).seq = s.seq := rfl
@[simp] theorem State.setCmds_chain (ws : List Word) (s : State) : (s.setCmds ws).chain = s.chain := rfl
@[simp] theorem State.setCmds_phase (ws : List Word) (s : State) : (s.setCmds ws).phase = s.phase := rfl
@[simp] theorem State.setCmds_fault (ws : List Word) (s : State) : (s.setCmds ws).fault = s.fault := rfl
@[simp] theorem State.setCmds_busReq (ws : List Word) (s : State) : (s.setCmds ws).busReq = s.busReq := rfl
@[simp] theorem State.setCmds_rsp (ws : List Word) (s : State) : (s.setCmds ws).rsp = s.rsp := rfl
@[simp] theorem State.setCmds_tick (ws : List Word) (s : State) : (s.setCmds ws).tick = s.tick := rfl
@[simp] theorem State.setCmds_vcount (ws : List Word) (s : State) : (s.setCmds ws).vcount = s.vcount := rfl
@[simp] theorem State.setCmds_keyraw (ws : List Word) (s : State) : (s.setCmds ws).keyraw = s.keyraw := rfl
@[simp] theorem State.setCmds_cmds (ws : List Word) (s : State) : (s.setCmds ws).cmds = ws := rfl
@[simp] theorem State.setCmds_schedule (ws : List Word) (s : State) : (s.setCmds ws).schedule = s.schedule := rfl
@[simp] theorem State.setCmds_drawn (ws : List Word) (s : State) : (s.setCmds ws).drawn = s.drawn := rfl
@[simp] theorem State.setCmds_history (ws : List Word) (s : State) : (s.setCmds ws).history = s.history := rfl

/-! ### setSchedule -/

@[simp] theorem State.setSchedule_cfg (ms : List Move) (s : State) : (s.setSchedule ms).cfg = s.cfg := rfl
@[simp] theorem State.setSchedule_seq (ms : List Move) (s : State) : (s.setSchedule ms).seq = s.seq := rfl
@[simp] theorem State.setSchedule_chain (ms : List Move) (s : State) : (s.setSchedule ms).chain = s.chain := rfl
@[simp] theorem State.setSchedule_phase (ms : List Move) (s : State) : (s.setSchedule ms).phase = s.phase := rfl
@[simp] theorem State.setSchedule_fault (ms : List Move) (s : State) : (s.setSchedule ms).fault = s.fault := rfl
@[simp] theorem State.setSchedule_busReq (ms : List Move) (s : State) : (s.setSchedule ms).busReq = s.busReq := rfl
@[simp] theorem State.setSchedule_rsp (ms : List Move) (s : State) : (s.setSchedule ms).rsp = s.rsp := rfl
@[simp] theorem State.setSchedule_tick (ms : List Move) (s : State) : (s.setSchedule ms).tick = s.tick := rfl
@[simp] theorem State.setSchedule_vcount (ms : List Move) (s : State) : (s.setSchedule ms).vcount = s.vcount := rfl
@[simp] theorem State.setSchedule_keyraw (ms : List Move) (s : State) : (s.setSchedule ms).keyraw = s.keyraw := rfl
@[simp] theorem State.setSchedule_cmds (ms : List Move) (s : State) : (s.setSchedule ms).cmds = s.cmds := rfl
@[simp] theorem State.setSchedule_schedule (ms : List Move) (s : State) : (s.setSchedule ms).schedule = ms := rfl
@[simp] theorem State.setSchedule_drawn (ms : List Move) (s : State) : (s.setSchedule ms).drawn = s.drawn := rfl
@[simp] theorem State.setSchedule_history (ms : List Move) (s : State) : (s.setSchedule ms).history = s.history := rfl

/-! ### setDrawn -/

@[simp] theorem State.setDrawn_cfg (n : Nat) (s : State) : (s.setDrawn n).cfg = s.cfg := rfl
@[simp] theorem State.setDrawn_seq (n : Nat) (s : State) : (s.setDrawn n).seq = s.seq := rfl
@[simp] theorem State.setDrawn_chain (n : Nat) (s : State) : (s.setDrawn n).chain = s.chain := rfl
@[simp] theorem State.setDrawn_phase (n : Nat) (s : State) : (s.setDrawn n).phase = s.phase := rfl
@[simp] theorem State.setDrawn_fault (n : Nat) (s : State) : (s.setDrawn n).fault = s.fault := rfl
@[simp] theorem State.setDrawn_busReq (n : Nat) (s : State) : (s.setDrawn n).busReq = s.busReq := rfl
@[simp] theorem State.setDrawn_rsp (n : Nat) (s : State) : (s.setDrawn n).rsp = s.rsp := rfl
@[simp] theorem State.setDrawn_tick (n : Nat) (s : State) : (s.setDrawn n).tick = s.tick := rfl
@[simp] theorem State.setDrawn_vcount (n : Nat) (s : State) : (s.setDrawn n).vcount = s.vcount := rfl
@[simp] theorem State.setDrawn_keyraw (n : Nat) (s : State) : (s.setDrawn n).keyraw = s.keyraw := rfl
@[simp] theorem State.setDrawn_cmds (n : Nat) (s : State) : (s.setDrawn n).cmds = s.cmds := rfl
@[simp] theorem State.setDrawn_schedule (n : Nat) (s : State) : (s.setDrawn n).schedule = s.schedule := rfl
@[simp] theorem State.setDrawn_drawn (n : Nat) (s : State) : (s.setDrawn n).drawn = n := rfl
@[simp] theorem State.setDrawn_history (n : Nat) (s : State) : (s.setDrawn n).history = s.history := rfl

/-! ### State.log -/

@[simp] theorem State.log_cfg (e : Event) (s : State) : (s.log e).cfg = s.cfg := rfl
@[simp] theorem State.log_seq (e : Event) (s : State) : (s.log e).seq = s.seq := rfl
@[simp] theorem State.log_chain (e : Event) (s : State) : (s.log e).chain = s.chain := rfl
@[simp] theorem State.log_phase (e : Event) (s : State) : (s.log e).phase = s.phase := rfl
@[simp] theorem State.log_fault (e : Event) (s : State) : (s.log e).fault = s.fault := rfl
@[simp] theorem State.log_busReq (e : Event) (s : State) : (s.log e).busReq = s.busReq := rfl
@[simp] theorem State.log_rsp (e : Event) (s : State) : (s.log e).rsp = s.rsp := rfl
@[simp] theorem State.log_tick (e : Event) (s : State) : (s.log e).tick = s.tick := rfl
@[simp] theorem State.log_vcount (e : Event) (s : State) : (s.log e).vcount = s.vcount := rfl
@[simp] theorem State.log_keyraw (e : Event) (s : State) : (s.log e).keyraw = s.keyraw := rfl
@[simp] theorem State.log_cmds (e : Event) (s : State) : (s.log e).cmds = s.cmds := rfl
@[simp] theorem State.log_schedule (e : Event) (s : State) : (s.log e).schedule = s.schedule := rfl
@[simp] theorem State.log_drawn (e : Event) (s : State) : (s.log e).drawn = s.drawn := rfl
@[simp] theorem State.log_history (e : Event) (s : State) : (s.log e).history = s.history ++ [e] := rfl

/-! ### State.dropPulses -/

@[simp] theorem State.dropPulses_cfg (s : State) : (s.dropPulses).cfg = s.cfg := rfl
@[simp] theorem State.dropPulses_seq (s : State) : (s.dropPulses).seq = s.seq := rfl
@[simp] theorem State.dropPulses_chain (s : State) : (s.dropPulses).chain = s.chain := rfl
@[simp] theorem State.dropPulses_phase (s : State) : (s.dropPulses).phase = s.phase := rfl
@[simp] theorem State.dropPulses_fault (s : State) : (s.dropPulses).fault = s.fault := rfl
@[simp] theorem State.dropPulses_busReq (s : State) : (s.dropPulses).busReq = s.busReq := rfl
@[simp] theorem State.dropPulses_rsp (s : State) : (s.dropPulses).rsp = none := rfl
@[simp] theorem State.dropPulses_tick (s : State) : (s.dropPulses).tick = false := rfl
@[simp] theorem State.dropPulses_vcount (s : State) : (s.dropPulses).vcount = s.vcount := rfl
@[simp] theorem State.dropPulses_keyraw (s : State) : (s.dropPulses).keyraw = s.keyraw := rfl
@[simp] theorem State.dropPulses_cmds (s : State) : (s.dropPulses).cmds = s.cmds := rfl
@[simp] theorem State.dropPulses_schedule (s : State) : (s.dropPulses).schedule = s.schedule := rfl
@[simp] theorem State.dropPulses_drawn (s : State) : (s.dropPulses).drawn = s.drawn := rfl
@[simp] theorem State.dropPulses_history (s : State) : (s.dropPulses).history = s.history := rfl

/-! ### State.afterRead -/

@[simp] theorem State.afterRead_cfg (t : BusTarget) (s : State) : (s.afterRead t).cfg = s.cfg := rfl
@[simp] theorem State.afterRead_seq (t : BusTarget) (s : State) : (s.afterRead t).seq = s.seq := rfl
@[simp] theorem State.afterRead_chain (t : BusTarget) (s : State) : (s.afterRead t).chain = s.chain := rfl
@[simp] theorem State.afterRead_phase (t : BusTarget) (s : State) : (s.afterRead t).phase = s.phase := rfl
@[simp] theorem State.afterRead_fault (t : BusTarget) (s : State) : (s.afterRead t).fault = s.fault := rfl
@[simp] theorem State.afterRead_busReq (t : BusTarget) (s : State) : (s.afterRead t).busReq = false := rfl
@[simp] theorem State.afterRead_rsp (t : BusTarget) (s : State) : (s.afterRead t).rsp = s.rsp := rfl
@[simp] theorem State.afterRead_tick (t : BusTarget) (s : State) : (s.afterRead t).tick = s.tick := rfl
@[simp] theorem State.afterRead_vcount (t : BusTarget) (s : State) : (s.afterRead t).vcount = s.vcount := rfl
@[simp] theorem State.afterRead_keyraw (t : BusTarget) (s : State) : (s.afterRead t).keyraw = s.keyraw := rfl
@[simp] theorem State.afterRead_cmds (t : BusTarget) (s : State) : (s.afterRead t).cmds = s.cmds := rfl
@[simp] theorem State.afterRead_schedule (t : BusTarget) (s : State) : (s.afterRead t).schedule = s.schedule := rfl
@[simp] theorem State.afterRead_drawn (t : BusTarget) (s : State) : (s.afterRead t).drawn = s.drawn := rfl
@[simp] theorem State.afterRead_history (t : BusTarget) (s : State) : (s.afterRead t).history
    = s.history ++ [.read (t.addr s.cfg) (t.value s)] := rfl

/-! ### respond -/

@[simp] theorem respond_cfg (v : Half) (s : State) : (respond v s).cfg = s.cfg := rfl
@[simp] theorem respond_seq (v : Half) (s : State) : (respond v s).seq = s.seq := rfl
@[simp] theorem respond_chain (v : Half) (s : State) : (respond v s).chain = s.chain := rfl
@[simp] theorem respond_phase (v : Half) (s : State) : (respond v s).phase = s.phase := rfl
@[simp] theorem respond_fault (v : Half) (s : State) : (respond v s).fault = s.fault := rfl
@[simp] theorem respond_busReq (v : Half) (s : State) : (respond v s).busReq = s.busReq := rfl
@[simp] theorem respond_rsp (v : Half) (s : State) : (respond v s).rsp = some v := rfl
@[simp] theorem respond_tick (v : Half) (s : State) : (respond v s).tick = s.tick := rfl
@[simp] theorem respond_vcount (v : Half) (s : State) : (respond v s).vcount = s.vcount := rfl
@[simp] theorem respond_keyraw (v : Half) (s : State) : (respond v s).keyraw = s.keyraw := rfl
@[simp] theorem respond_cmds (v : Half) (s : State) : (respond v s).cmds = s.cmds := rfl
@[simp] theorem respond_schedule (v : Half) (s : State) : (respond v s).schedule = s.schedule := rfl
@[simp] theorem respond_drawn (v : Half) (s : State) : (respond v s).drawn = s.drawn := rfl
@[simp] theorem respond_history (v : Half) (s : State) : (respond v s).history = s.history ++ [.rsp v] := rfl

/-! ### emitTick -/

@[simp] theorem emitTick_cfg (s : State) : (emitTick s).cfg = s.cfg := rfl
@[simp] theorem emitTick_seq (s : State) : (emitTick s).seq = s.seq := rfl
@[simp] theorem emitTick_chain (s : State) : (emitTick s).chain = s.chain := rfl
@[simp] theorem emitTick_phase (s : State) : (emitTick s).phase = s.phase := rfl
@[simp] theorem emitTick_fault (s : State) : (emitTick s).fault = s.fault := rfl
@[simp] theorem emitTick_busReq (s : State) : (emitTick s).busReq = s.busReq := rfl
@[simp] theorem emitTick_rsp (s : State) : (emitTick s).rsp = s.rsp := rfl
@[simp] theorem emitTick_tick (s : State) : (emitTick s).tick = true := rfl
@[simp] theorem emitTick_vcount (s : State) : (emitTick s).vcount = s.vcount := rfl
@[simp] theorem emitTick_keyraw (s : State) : (emitTick s).keyraw = s.keyraw := rfl
@[simp] theorem emitTick_cmds (s : State) : (emitTick s).cmds = s.cmds := rfl
@[simp] theorem emitTick_schedule (s : State) : (emitTick s).schedule = s.schedule := rfl
@[simp] theorem emitTick_drawn (s : State) : (emitTick s).drawn = s.drawn := rfl
@[simp] theorem emitTick_history (s : State) : (emitTick s).history = s.history ++ [.tick] := rfl

/-! ### complete -/

@[simp] theorem complete_cfg (s : State) : (complete s).cfg = s.cfg := rfl
@[simp] theorem complete_seq (s : State) : (complete s).seq = .idle := rfl
@[simp] theorem complete_chain (s : State) : (complete s).chain = false := rfl
@[simp] theorem complete_phase (s : State) : (complete s).phase = s.phase := rfl
@[simp] theorem complete_fault (s : State) : (complete s).fault = s.fault := rfl
@[simp] theorem complete_busReq (s : State) : (complete s).busReq = s.busReq := rfl
@[simp] theorem complete_rsp (s : State) : (complete s).rsp = s.rsp := rfl
@[simp] theorem complete_tick (s : State) : (complete s).tick = s.tick := rfl
@[simp] theorem complete_vcount (s : State) : (complete s).vcount = s.vcount := rfl
@[simp] theorem complete_keyraw (s : State) : (complete s).keyraw = s.keyraw := rfl
@[simp] theorem complete_cmds (s : State) : (complete s).cmds = s.cmds := rfl
@[simp] theorem complete_schedule (s : State) : (complete s).schedule = s.schedule := rfl
@[simp] theorem complete_drawn (s : State) : (complete s).drawn = s.drawn := rfl
@[simp] theorem complete_history (s : State) : (complete s).history = s.history := rfl

/-! ### raiseIllegalCommand -/

@[simp] theorem raiseIllegalCommand_cfg (w : Word) (s : State) : (raiseIllegalCommand w s).cfg = s.cfg := rfl
@[simp] theorem raiseIllegalCommand_seq (w : Word) (s : State) : (raiseIllegalCommand w s).seq = s.seq := rfl
@[simp] theorem raiseIllegalCommand_chain (w : Word) (s : State) : (raiseIllegalCommand w s).chain = s.chain := rfl
@[simp] theorem raiseIllegalCommand_phase (w : Word) (s : State) : (raiseIllegalCommand w s).phase = s.phase := rfl
@[simp] theorem raiseIllegalCommand_fault (w : Word) (s : State) : (raiseIllegalCommand w s).fault
    = some (.illegalCommand w) := rfl
@[simp] theorem raiseIllegalCommand_busReq (w : Word) (s : State) : (raiseIllegalCommand w s).busReq = s.busReq := rfl
@[simp] theorem raiseIllegalCommand_rsp (w : Word) (s : State) : (raiseIllegalCommand w s).rsp = s.rsp := rfl
@[simp] theorem raiseIllegalCommand_tick (w : Word) (s : State) : (raiseIllegalCommand w s).tick = s.tick := rfl
@[simp] theorem raiseIllegalCommand_vcount (w : Word) (s : State) : (raiseIllegalCommand w s).vcount = s.vcount := rfl
@[simp] theorem raiseIllegalCommand_keyraw (w : Word) (s : State) : (raiseIllegalCommand w s).keyraw = s.keyraw := rfl
@[simp] theorem raiseIllegalCommand_cmds (w : Word) (s : State) : (raiseIllegalCommand w s).cmds = s.cmds := rfl
@[simp] theorem raiseIllegalCommand_schedule (w : Word) (s : State) : (raiseIllegalCommand w s).schedule = s.schedule := rfl
@[simp] theorem raiseIllegalCommand_drawn (w : Word) (s : State) : (raiseIllegalCommand w s).drawn = s.drawn := rfl
@[simp] theorem raiseIllegalCommand_history (w : Word) (s : State) : (raiseIllegalCommand w s).history
    = s.history ++ [.fault (.illegalCommand w)] := rfl

/-! ### resetBlock -/

@[simp] theorem resetBlock_cfg (s : State) : (resetBlock s).cfg = s.cfg := rfl
@[simp] theorem resetBlock_seq (s : State) : (resetBlock s).seq = .idle := rfl
@[simp] theorem resetBlock_chain (s : State) : (resetBlock s).chain = false := rfl
@[simp] theorem resetBlock_phase (s : State) : (resetBlock s).phase = .drawPhase := rfl
@[simp] theorem resetBlock_fault (s : State) : (resetBlock s).fault = none := rfl
@[simp] theorem resetBlock_busReq (s : State) : (resetBlock s).busReq = false := rfl
@[simp] theorem resetBlock_rsp (s : State) : (resetBlock s).rsp = none := rfl
@[simp] theorem resetBlock_tick (s : State) : (resetBlock s).tick = false := rfl
@[simp] theorem resetBlock_vcount (s : State) : (resetBlock s).vcount = s.vcount := rfl
@[simp] theorem resetBlock_keyraw (s : State) : (resetBlock s).keyraw = s.keyraw := rfl
@[simp] theorem resetBlock_cmds (s : State) : (resetBlock s).cmds = s.cmds := rfl
@[simp] theorem resetBlock_schedule (s : State) : (resetBlock s).schedule = s.schedule := rfl
@[simp] theorem resetBlock_drawn (s : State) : (resetBlock s).drawn = s.drawn := rfl
@[simp] theorem resetBlock_history (s : State) : (resetBlock s).history = s.history ++ [.reset] := rfl

end Sys2Proof.Machine
end

