-- ==== Sys2Proof/Laws/Ops.lean ====
section
/-! SUPPORT. One lemma for each shared operation: everything it can do. -/

namespace Sys2Proof.Machine

theorem blanking_iff (c : Config) (v : Half) : blanking c v = true ↔ c.blankThreshold.toNat ≤ v.toNat := by
  simp [blanking]

theorem drawable_iff (c : Config) (v : Half) : drawable c v = true ↔ v.toNat < c.blankThreshold.toNat := by
  simp [drawable]

/-- Every sample is in exactly one region (R104). -/
theorem drawable_eq_not_blanking (c : Config) (v : Half) : drawable c v = !blanking c v := by
  rw [Bool.eq_iff_iff]
  simp [drawable, blanking]

/-- `Poll` in `POLL_BLANK` (R103): spin, go on to the draw half, or complete. -/
theorem poll_blank (s : State) (h : s.seq = .pollBlank) :
    poll s =
      if blanking s.cfg s.vcount then
        if s.chain then (((s.afterRead .timing).setPhase .blankPhase).setChain false).setSeq .pollDraw
        else complete (respond 0#16 ((s.afterRead .timing).setPhase .blankPhase))
      else s.afterRead .timing := by
  simp [poll, memRead, h, pollBlank, BusTarget.value]
  rfl

/-- `Poll` in any other state it is called in (R103): spin, or complete with or without a tick. -/
theorem poll_draw (s : State) (h : s.seq ≠ .pollBlank) :
    poll s =
      if drawable s.cfg s.vcount then
        if s.phase = .blankPhase then
          complete (respond 1#16 (emitTick ((s.afterRead .timing).setPhase .drawPhase)))
        else complete (respond 0#16 ((s.afterRead .timing).setPhase .drawPhase))
      else s.afterRead .timing := by
  simp [poll, memRead, h, pollDraw, BusTarget.value, zextBool]

/-- `KeyRead` (R120). -/
theorem keyRead_eq (s : State) :
    keyRead s = complete (respond (decodeKeys s.cfg s.keyraw) (s.afterRead .keypad)) := rfl

/-- What the accepted command writes: `SEQ` and `CHAIN`, or a response (R89). -/
def accepted (i : Instr) (s : State) : State :=
  match i with
  | .waitblank => (s.setSeq .pollBlank).setChain false
  | .waitdraw => (s.setSeq .pollDraw).setChain false
  | .sync => (s.setSeq .pollBlank).setChain true
  | .readkeys => (s.setSeq .readKey).setChain false
  | .ispressed mask button => respond (zextBool (anyHeld mask button)) s

/-- Every command is accepted with a next state (R89). -/
theorem exec_eq (i : Instr) (s : State) : exec i s = .next (accepted i s) := by
  cases i <;> rfl

/-- What `Accept` leaves, whatever the word (R89). -/
def afterAccept (w : Word) (s : State) : State :=
  match decode w with
  | .ok i => accepted i (s.log (.cmd w))
  | .error _ => raiseIllegalCommand w (s.log (.cmd w))

theorem accept_eq (w : Word) (s : State) : accept w s = .next (afterAccept w s) := by
  unfold accept afterAccept
  cases decode w with
  | ok i => exact exec_eq i _
  | error _ => rfl

/-- What `Accept` can do (R89): enter a polling or reading state, respond, or fault. -/
theorem afterAccept_cases (w : Word) (s : State) :
    (∃ q c, afterAccept w s = ((s.log (.cmd w)).setSeq q).setChain c
      ∧ (q = .pollBlank ∨ (q = .pollDraw ∧ c = false) ∨ (q = .readKey ∧ c = false)) ∧ legalWord w = true)
    ∨ (∃ v, afterAccept w s = respond v (s.log (.cmd w)) ∧ legalWord w = true)
    ∨ (afterAccept w s = raiseIllegalCommand w (s.log (.cmd w)) ∧ legalWord w = false) := by
  unfold afterAccept legalWord
  cases decode w with
  | error r => exact .inr (.inr ⟨rfl, rfl⟩)
  | ok i =>
    cases i with
    | waitblank => exact .inl ⟨_, _, rfl, .inl rfl, rfl⟩
    | waitdraw => exact .inl ⟨_, _, rfl, .inr (.inl ⟨rfl, rfl⟩), rfl⟩
    | sync => exact .inl ⟨_, _, rfl, .inl rfl, rfl⟩
    | readkeys => exact .inl ⟨_, _, rfl, .inr (.inr ⟨rfl, rfl⟩), rfl⟩
    | ispressed mask button => exact .inr (.inl ⟨_, rfl, rfl⟩)

/-- What `Poll` can do (R103): spin, go on to the draw half, end a blank wait, end a draw wait with a tick, or end one
without. -/
theorem poll_cases (s : State) (hs : s.seq = .pollBlank ∨ s.seq = .pollDraw) :
    (poll s = s.afterRead .timing
      ∧ ((s.seq = .pollBlank ∧ s.vcount.toNat < s.cfg.blankThreshold.toNat)
        ∨ (s.seq = .pollDraw ∧ s.cfg.blankThreshold.toNat ≤ s.vcount.toNat)))
    ∨ (poll s = (((s.afterRead .timing).setPhase .blankPhase).setChain false).setSeq .pollDraw
      ∧ s.seq = .pollBlank ∧ s.cfg.blankThreshold.toNat ≤ s.vcount.toNat ∧ s.chain = true)
    ∨ (poll s = complete (respond 0#16 ((s.afterRead .timing).setPhase .blankPhase))
      ∧ s.seq = .pollBlank ∧ s.cfg.blankThreshold.toNat ≤ s.vcount.toNat ∧ s.chain = false)
    ∨ (poll s = complete (respond 1#16 (emitTick ((s.afterRead .timing).setPhase .drawPhase)))
      ∧ s.seq = .pollDraw ∧ s.vcount.toNat < s.cfg.blankThreshold.toNat ∧ s.phase = .blankPhase)
    ∨ (poll s = complete (respond 0#16 ((s.afterRead .timing).setPhase .drawPhase))
      ∧ s.seq = .pollDraw ∧ s.vcount.toNat < s.cfg.blankThreshold.toNat ∧ s.phase = .drawPhase) := by
  rcases hs with hs | hs
  · rw [poll_blank _ hs]
    split
    · rename_i hb
      rw [blanking_iff] at hb
      split
      · rename_i hc; exact .inr (.inl ⟨rfl, hs, hb, hc⟩)
      · rename_i hc; exact .inr (.inr (.inl ⟨rfl, hs, hb, by simpa using hc⟩))
    · rename_i hb
      rw [blanking_iff] at hb
      exact .inl ⟨rfl, .inl ⟨hs, by omega⟩⟩
  · rw [poll_draw _ (by simp [hs])]
    split
    · rename_i hb
      rw [drawable_iff] at hb
      split
      · rename_i hc; exact .inr (.inr (.inr (.inl ⟨rfl, hs, hb, hc⟩)))
      · rename_i hc
        exact .inr (.inr (.inr (.inr ⟨rfl, hs, hb, by cases hp : s.phase <;> simp_all⟩)))
    · rename_i hb
      rw [drawable_iff] at hb
      exact .inl ⟨rfl, .inr ⟨hs, by omega⟩⟩

/-- `(A & B) != 0` bit by bit (R123). -/
theorem anyHeld_iff (a b : Mask10) :
    anyHeld a b = true ↔ ∃ i, i < 10 ∧ a.getLsbD i = true ∧ b.getLsbD i = true := by
  constructor
  · intro h
    by_contra hn
    push Not at hn
    have hne : a &&& b ≠ 0#10 := by simpa [anyHeld] using h
    refine hne (BitVec.eq_of_getLsbD_eq fun i hi => ?_)
    simp only [BitVec.getLsbD_and, BitVec.getLsbD_zero, Bool.and_eq_false_iff]
    cases h1 : a.getLsbD i with
    | false => exact .inl rfl
    | true => exact .inr (Bool.eq_false_iff.mpr (hn i hi h1))
  · rintro ⟨i, _, h1, h2⟩
    simp only [anyHeld, bne_iff_ne]
    intro h
    have := congrArg (fun x => x.getLsbD i) h
    simp [h1, h2] at this

/-- No command touches the configuration, `PHASE`, `FAULT`, `bus_req`, the devices or the inputs when it is accepted (R89). -/
theorem accepted_frame (i : Instr) (s : State) :
    (accepted i s).cfg = s.cfg ∧ (accepted i s).phase = s.phase ∧ (accepted i s).fault = s.fault
      ∧ (accepted i s).busReq = s.busReq ∧ (accepted i s).tick = s.tick
      ∧ (accepted i s).vcount = s.vcount ∧ (accepted i s).keyraw = s.keyraw
      ∧ (accepted i s).cmds = s.cmds ∧ (accepted i s).schedule = s.schedule
      ∧ (accepted i s).drawn = s.drawn := by
  cases i <;> simp [accepted]

end Sys2Proof.Machine
end

