-- ==== Sys2Proof/Laws/Step.lean ====
section
/-! SUPPORT. Everything a step can do: one inversion lemma, and how a run unrolls. -/

namespace Sys2Proof.Machine

/-- The effect of one move on the state it starts from, when it answers a next state. -/
inductive Effect (s : State) : Move → State → Prop
  | idle (hf : s.fault = none) (hs : s.seq = .idle) (hc : s.cmds = []) : Effect s .block s
  | accept (w : Word) (rest : List Word) (hf : s.fault = none) (hs : s.seq = .idle) (hc : s.cmds = w :: rest) :
      Effect s .block (afterAccept w (s.setCmds rest))
  | request (hf : s.fault = none) (hs : s.seq ≠ .idle) : Effect s .block (s.setBusReq true)
  | poll (hf : s.fault = none) (hb : s.busReq = true) (hs : s.seq = .pollBlank ∨ s.seq = .pollDraw) :
      Effect s .ack (poll s)
  | keyRead (hf : s.fault = none) (hb : s.busReq = true) (hs : s.seq = .readKey) : Effect s .ack (keyRead s)
  | noRead (h : s.busReq = true → s.fault = none → s.seq = .idle) : Effect s .ack s
  | offer (w : Word) (hf : s.fault = none) : Effect s (.offer w) (s.setCmds (s.cmds ++ [w]))
  | advance : Effect s .advance (advance s)
  | change (v : Half) : Effect s (.change v) (change v s)
  | reset : Effect s .reset (resetBlock s)

/-- Every move that answers a next state has one of the ten effects. -/
theorem runMove_effect {m : Move} {s t : State} (h : runMove m s = .next t) : Effect s m t := by
  cases m with
  | block =>
    simp only [runMove, blockStep] at h
    split at h
    · cases h
    · split at h
      · split at h
        · cases h; exact .idle ‹_› ‹_› ‹_›
        · rw [accept_eq] at h; cases h; exact .accept _ _ ‹_› ‹_› ‹_›
      · rename_i hf _ hs; cases h; exact .request hf (by simp [hs])
      · rename_i hf _ hs; cases h; exact .request hf (by simp [hs])
      · rename_i hf _ hs; cases h; exact .request hf (by simp [hs])
  | ack =>
    cases h
    unfold ackStep
    split
    · rename_i hb
      split
      · rename_i hs; exact .noRead fun _ _ => hs
      · exact .poll hb.2 hb.1 (.inl ‹_›)
      · exact .poll hb.2 hb.1 (.inr ‹_›)
      · exact .keyRead hb.2 hb.1 ‹_›
    · rename_i hb; exact .noRead fun h1 h2 => absurd ⟨h1, h2⟩ hb
  | offer w =>
    simp only [runMove, offerStep] at h
    split at h
    · cases h
    · cases h; exact .offer w ‹_›
  | advance => cases h; exact .advance
  | change v => cases h; exact .change v
  | reset => cases h; exact .reset

/-- A step that answers a next state had a valid configuration, and is one move's effect. -/
theorem step_next {s t : State} (h : step s = .next t) :
    configRefusal s.cfg = none ∧ Effect (nextMove s).2.dropPulses (nextMove s).1 t := by
  unfold step at h
  split at h
  · cases h
  · exact ⟨‹_›, runMove_effect h⟩

/-- A step with a given schedule: the configuration is valid and the first move of the schedule runs. -/
theorem step_scheduled {s : State} {m : Move} {rest : List Move} (hc : configRefusal s.cfg = none)
    (hs : s.schedule = m :: rest) : step s = runMove m (s.setSchedule rest).dropPulses := by
  simp [step, hc, nextMove, hs]

/-- Taking the next move changes the schedule and the count of free moves, nothing else. -/
theorem nextMove_frame (s : State) :
    (nextMove s).2.cfg = s.cfg ∧ (nextMove s).2.seq = s.seq ∧ (nextMove s).2.chain = s.chain
      ∧ (nextMove s).2.phase = s.phase ∧ (nextMove s).2.fault = s.fault ∧ (nextMove s).2.busReq = s.busReq
      ∧ (nextMove s).2.vcount = s.vcount ∧ (nextMove s).2.keyraw = s.keyraw ∧ (nextMove s).2.cmds = s.cmds
      ∧ (nextMove s).2.history = s.history := by
  unfold nextMove
  split <;> simp

/-- Taking the next move, as two named updates. -/
theorem nextMove_eq (s : State) : ∃ ms d, (nextMove s).2 = (s.setSchedule ms).setDrawn d := by
  unfold nextMove
  split
  · rename_i m rest h
    exact ⟨rest, s.drawn, rfl⟩
  · rename_i h
    exact ⟨[], s.drawn + 1, by rw [← h]; rfl⟩

/-- The other way round: a move's effect is what that move answers. -/
theorem runMove_of_effect {m : Move} {s t : State} (h : Effect s m t) : runMove m s = .next t := by
  cases h with
  | idle hf hs hc => simp [runMove, blockStep, hf, hs, hc]
  | accept w rest hf hs hc => simp [runMove, blockStep, hf, hs, hc, accept_eq]
  | request hf hs =>
    rw [runMove, blockStep, hf]
    cases hq : s.seq with
    | idle => exact absurd hq hs
    | pollBlank => rfl
    | pollDraw => rfl
    | readKey => rfl
  | poll hf hb hs => rcases hs with hs | hs <;> simp [runMove, ackStep, hf, hb, hs]
  | keyRead hf hb hs => simp [runMove, ackStep, hf, hb, hs]
  | noRead h =>
    rw [runMove, ackStep]
    split
    · rename_i hb; rw [h hb.1 hb.2]
    · rfl
  | offer w hf => simp [runMove, offerStep, hf]
  | advance => rfl
  | change v => rfl
  | reset => rfl

/-- In a valid configuration the next move's effect is what the step answers. -/
theorem step_of_effect {s t : State} (hc : configRefusal s.cfg = none)
    (h : Effect (nextMove s).2.dropPulses (nextMove s).1 t) : step s = .next t := by
  unfold step
  rw [hc]
  exact runMove_of_effect h

/-- No move is refused: only a configuration is. -/
theorem runMove_not_refused (m : Move) (s : State) (q : Refusal) : runMove m s ≠ .refused q := by
  cases m with
  | block =>
    simp only [runMove, blockStep]
    split
    · simp
    · split
      · split
        · simp
        · simp [accept_eq]
      · simp
      · simp
      · simp
  | ack => simp [runMove]
  | offer w => simp only [runMove, offerStep]; split <;> simp
  | advance => simp [runMove]
  | change v => simp [runMove]
  | reset => simp [runMove]

/-- What a valid configuration bounds (R6). -/
theorem valid_bounds {c : Config} (h : configRefusal c = none) :
    2 ≤ c.lines ∧ c.lines ≤ 65536 ∧ 1 ≤ c.blankThreshold.toNat ∧ c.blankThreshold.toNat ≤ c.lines - 1 := by
  unfold configRefusal at h
  split_ifs at h
  omega

/-- The counter's next value as a number (R147). -/
theorem nextCount_toNat {c : Config} (h : configRefusal c = none) (v : Half) :
    (nextCount c v).toNat = (v.toNat + 1) % c.lines := by
  obtain ⟨h1, h2, _⟩ := valid_bounds h
  have := Nat.mod_lt (v.toNat + 1) (show c.lines > 0 by omega)
  rw [nextCount, BitVec.toNat_ofNat]
  exact Nat.mod_eq_of_lt (by omega)

@[simp] theorem run_zero (s : State) : run 0 s = .next s := rfl

theorem run_succ {k : Nat} {s t : State} (h : step s = .next t) : run (k + 1) s = run k t := by
  simp [run, h]

/-- A run in two parts. -/
theorem run_add {j k : Nat} {s t : State} (h : run j s = .next t) : run (j + k) s = run k t := by
  induction j generalizing s with
  | zero => cases h; simp
  | succ j ih =>
    rw [show j + 1 + k = (j + k) + 1 by omega]
    cases hs : step s with
    | next u => rw [run_succ hs] at h ⊢; exact ih h
    | fault f => simp [run, hs] at h
    | refused r => simp [run, hs] at h

end Sys2Proof.Machine
end

