-- ==== Sys2Proof/Laws/Events.lean ====
section
/-! SUPPORT. The events a step appends to the history: one inversion lemma, and the counts over an appended history. -/

namespace Sys2Proof.Machine

/-- The events of one step from `s` to `t`, with what comes with them: where the sequencer was and is, and the pulses. -/
inductive Appends (s t : State) : List Event → Prop
  | nothing (ha : s.answered → s.seq = .idle) (hm : (nextMove s).1 ≠ .reset) (hq : t.seq = s.seq)
      (ht : t.tick = false) (hr : t.rsp = none) : Appends s t []
  | entered (w : Word) (hl : legalWord w = true) (ha : s.accepting) (hq : t.seq ≠ .idle) (ht : t.tick = false)
      (hr : t.rsp = none) : Appends s t [.cmd w]
  | pressed (w : Word) (v : Half) (hl : legalWord w = true) (ha : s.accepting) (hq : t.seq = .idle)
      (ht : t.tick = false) (hr : t.rsp = some v) : Appends s t [.cmd w, .rsp v]
  | illegal (w : Word) (hl : legalWord w = false) (ha : s.accepting) (hq : t.seq = .idle) (ht : t.tick = false)
      (hr : t.rsp = none) : Appends s t [.cmd w, .fault (.illegalCommand w)]
  | polled (ha : s.answered)
      (hs : s.seq = .pollBlank ∨ (s.seq = .pollDraw ∧ s.cfg.blankThreshold.toNat ≤ s.vcount.toNat))
      (hq : t.seq ≠ .idle) (ht : t.tick = false) (hr : t.rsp = none) :
      Appends s t [.read s.cfg.timingAddr s.vcount]
  | ended (ha : s.answered) (hs : s.seq = .pollBlank ∨ (s.seq = .pollDraw ∧ s.phase = .drawPhase))
      (hq : t.seq = .idle) (ht : t.tick = false) (hr : t.rsp = some 0#16) :
      Appends s t [.read s.cfg.timingAddr s.vcount, .rsp 0#16]
  | ticked (ha : s.answered) (hs : s.seq = .pollDraw) (hp : s.phase = .blankPhase)
      (hv : s.vcount.toNat < s.cfg.blankThreshold.toNat) (hq : t.seq = .idle) (ht : t.tick = true)
      (hr : t.rsp = some 1#16) : Appends s t [.read s.cfg.timingAddr s.vcount, .tick, .rsp 1#16]
  | keys (v : Half) (ha : s.answered) (hs : s.seq = .readKey) (hq : t.seq = .idle) (ht : t.tick = false)
      (hr : t.rsp = some v) : Appends s t [.read s.cfg.keypadAddr s.keyraw, .rsp v]
  | reset (hm : (nextMove s).1 = .reset) (hq : t.seq = .idle) (ht : t.tick = false) (hr : t.rsp = none) :
      Appends s t [.reset]

/-- Every step appends one of the nine (R31, R89, R103, R120, R160). -/
theorem step_appends {s t : State} (h : step s = .next t) : ∃ es, t.history = s.history ++ es ∧ Appends s t es := by
  obtain ⟨-, he⟩ := step_next h
  obtain ⟨ms, d, e⟩ := nextMove_eq s
  rw [e] at he
  generalize hm : (nextMove s).1 = m at he
  cases he with
  | idle hf hs hc => exact ⟨[], by simp, .nothing (fun _ => hs) (by simp [hm]) (by simp) (by simp) (by simp)⟩
  | accept w rest hf hs hc =>
    have hs' : s.seq = .idle := by simpa using hs
    have ha : s.accepting := ⟨hm, hs', by simp at hc; simp [hc]⟩
    rcases afterAccept_cases w ((((s.setSchedule ms).setDrawn d).dropPulses).setCmds rest) with
      ⟨q, c, e, h1, h2⟩ | ⟨v, e, h2⟩ | ⟨e, h2⟩
    · rw [e]
      exact ⟨_, by simp, .entered w h2 ha (by rcases h1 with rfl | ⟨rfl, _⟩ | ⟨rfl, _⟩ <;> simp) (by simp) (by simp)⟩
    · rw [e]
      exact ⟨[.cmd w, .rsp v], by simp, .pressed w v h2 ha (by simp [hs']) (by simp) (by simp)⟩
    · rw [e]
      exact ⟨[.cmd w, .fault (.illegalCommand w)], by simp, .illegal w h2 ha (by simp [hs']) (by simp) (by simp)⟩
  | request hf hs => exact ⟨[], by simp, .nothing (by simp [State.answered, hm]) (by simp [hm]) (by simp) (by simp) (by simp)⟩
  | poll hf hb hs =>
    have ha : s.answered := ⟨hm, by simpa using hb, by simpa using hf⟩
    rcases poll_cases _ hs with ⟨e, h⟩ | ⟨e, h⟩ | ⟨e, h⟩ | ⟨e, h⟩ | ⟨e, h⟩
    · rw [e]
      exact ⟨_, by simp [BusTarget.addr, BusTarget.value], .polled ha (h.imp (·.1) id)
        (by rcases hs with hs | hs <;> simp at hs <;> simp [hs]) (by simp) (by simp)⟩
    · rw [e]
      exact ⟨_, by simp [BusTarget.addr, BusTarget.value], .polled ha (.inl h.1) (by simp) (by simp) (by simp)⟩
    · rw [e]
      exact ⟨[.read s.cfg.timingAddr s.vcount, .rsp 0#16], by simp [BusTarget.addr, BusTarget.value],
        .ended ha (.inl h.1) (by simp) (by simp) (by simp)⟩
    · rw [e]
      exact ⟨[.read s.cfg.timingAddr s.vcount, .tick, .rsp 1#16], by simp [BusTarget.addr, BusTarget.value],
        .ticked ha h.1 h.2.2 h.2.1 (by simp) (by simp) (by simp)⟩
    · rw [e]
      exact ⟨[.read s.cfg.timingAddr s.vcount, .rsp 0#16], by simp [BusTarget.addr, BusTarget.value],
        .ended ha (.inr ⟨h.1, h.2.2⟩) (by simp) (by simp) (by simp)⟩
  | keyRead hf hb hs =>
    exact ⟨[.read s.cfg.keypadAddr s.keyraw, .rsp (decodeKeys s.cfg s.keyraw)],
      by simp [keyRead_eq, BusTarget.addr, BusTarget.value],
      .keys _ ⟨hm, by simpa using hb, by simpa using hf⟩ (by simpa using hs) (by simp [keyRead_eq]) (by simp [keyRead_eq])
        (by simp [keyRead_eq])⟩
  | noRead hn =>
    exact ⟨[], by simp, .nothing (fun ha => by simpa using hn (by simpa using ha.2.1) (by simpa using ha.2.2))
      (by simp [hm]) (by simp) (by simp) (by simp)⟩
  | offer w hf => exact ⟨[], by simp, .nothing (by simp [State.answered, hm]) (by simp [hm]) (by simp) (by simp) (by simp)⟩
  | advance =>
    exact ⟨[], by simp [advance], .nothing (by simp [State.answered, hm]) (by simp [hm]) (by simp [advance])
      (by simp [advance]) (by simp [advance])⟩
  | change v =>
    exact ⟨[], by simp [change], .nothing (by simp [State.answered, hm]) (by simp [hm]) (by simp [change])
      (by simp [change]) (by simp [change])⟩
  | reset => exact ⟨[.reset], by simp, .reset hm (by simp) (by simp) (by simp)⟩

/-- Events appended after the last reset. -/
theorem sinceReset_append (h es : List Event) (he : Event.reset ∉ es) : sinceReset (h ++ es) = sinceReset h ++ es := by
  unfold sinceReset
  rw [List.reverse_append, List.takeWhile_append_of_pos, List.reverse_append, List.reverse_reverse]
  intro x hx
  simp only [List.mem_reverse] at hx
  simp only [bne_iff_ne, ne_eq]
  rintro rfl
  exact he hx

@[simp] theorem sinceReset_reset (h : List Event) : sinceReset (h ++ [.reset]) = [] := by
  simp [sinceReset]

/-- Appended events that report their own ticks leave every tick reported. -/
theorem ticksReported_append (es : List Event) (he : ticksReported es = true) :
    ∀ h, ticksReported h = true → ticksReported (h ++ es) = true := by
  intro h
  induction h with
  | nil => intro _; simpa using he
  | cons e h ih =>
    intro hh
    cases e with
    | tick =>
      simp only [List.cons_append, ticksReported, Bool.and_eq_true] at hh ⊢
      refine ⟨?_, ih hh.2⟩
      cases h with
      | nil => simp at hh
      | cons a h => simpa using hh.1
    | _ => exact ih hh

end Sys2Proof.Machine
end

