-- ==== Sys2Proof/Laws/Run.lean ====
section
/-! SUPPORT. Runs of a wait: quiet moves, one round of quiet moves and a poll, and a whole plan of polls (R103, R106). -/

namespace Sys2Proof.Machine

/-- The block's scheduled step, on a live state. -/
theorem step_block {s : State} {ms : List Move} (h : s.live) (hs : s.schedule = .block :: ms) :
    step s = blockStep (s.setSchedule ms).dropPulses := by
  rw [step_scheduled h.1 hs]
  rfl

/-- The bus's answer, on a live state whose request stands: `Poll`. -/
theorem step_ack_poll {s : State} {ms : List Move} (h : s.live) (hb : s.busReq = true)
    (hq : s.seq = .pollBlank ∨ s.seq = .pollDraw) (hs : s.schedule = .ack :: ms) :
    step s = .next (poll (s.setSchedule ms).dropPulses) := by
  rw [step_scheduled h.1 hs]
  exact runMove_of_effect (.poll (by simpa using h.2) (by simpa using hb) (by simpa using hq))

/-- The bus's answer, on a live state whose request stands: `KeyRead`. -/
theorem step_ack_keyRead {s : State} {ms : List Move} (h : s.live) (hb : s.busReq = true) (hq : s.seq = .readKey)
    (hs : s.schedule = .ack :: ms) : step s = .next (keyRead (s.setSchedule ms).dropPulses) := by
  rw [step_scheduled h.1 hs]
  exact runMove_of_effect (.keyRead (by simpa using h.2) (by simpa using hb) (by simpa using hq))

/-- Accepting a legal word, as a run of one step. -/
theorem run_accept {s : State} {w : Word} {rest : List Word} {ms : List Move} {i : Instr} (h : s.ready)
    (hc : s.cmds = w :: rest) (hs : s.schedule = .block :: ms) (hd : decode w = .ok i) :
    run 1 s = .next (accepted i { s with
      cmds := rest, schedule := ms, rsp := none, tick := false, history := s.history ++ [.cmd w] }) := by
  have hst : step s = accept w ((s.setSchedule ms).dropPulses.setCmds rest) := by
    rw [step_block h.1 hs]
    simp [blockStep, h.1.2, h.2, hc]
  rw [accept_eq, afterAccept, hd] at hst
  rw [run_succ hst]
  rfl

/-- Quiet moves change the two device registers and the words on offer, and else only the outputs; a move of the block
among them leaves the request up (R9, R64). -/
theorem run_quiet (ms : List Move) : ∀ (s : State) (tail : List Move), s.live → s.seq ≠ .idle →
    s.schedule = ms ++ tail → (∀ m ∈ ms, isQuietMove m = true) →
    ∃ b r tk, (s.busReq = true ∨ .block ∈ ms → b = true) ∧ run ms.length s = .next { s with
      schedule := tail, vcount := countAfterAll s.cfg s.vcount ms, keyraw := keysAfterAll s.keyraw ms,
      cmds := s.cmds ++ offeredByAll ms, busReq := b, rsp := r, tick := tk } := by
  induction ms with
  | nil =>
    intro s tail _ _ hs _
    refine ⟨s.busReq, s.rsp, s.tick, by simp, ?_⟩
    simp only [List.nil_append] at hs
    subst hs
    simp [offeredByAll]
    rfl
  | cons m ms ih =>
    intro s tail h hi hs hq
    have hm := hq m (by simp)
    have hq' : ∀ m ∈ ms, isQuietMove m = true := fun m hm => hq m (by simp [hm])
    have hf : (s.setSchedule (ms ++ tail)).dropPulses.fault = none := h.2
    have hst := step_scheduled (rest := ms ++ tail) h.1 hs
    cases m with
    | ack => cases hm
    | reset => cases hm
    | block =>
      rw [runMove_of_effect (.request hf (by simpa using hi))] at hst
      obtain ⟨b, r, tk, hb, e⟩ := ih ((s.setSchedule (ms ++ tail)).dropPulses.setBusReq true) tail h hi rfl hq'
      exact ⟨b, r, tk, fun _ => hb (.inl rfl), by rw [List.length_cons, run_succ hst, e]; rfl⟩
    | offer w =>
      rw [runMove_of_effect (.offer w hf)] at hst
      obtain ⟨b, r, tk, hb, e⟩ := ih
        ((s.setSchedule (ms ++ tail)).dropPulses.setCmds (s.cmds ++ [w])) tail h hi rfl hq'
      have hc : s.cmds ++ offeredByAll (.offer w :: ms) = s.cmds ++ [w] ++ offeredByAll ms := by
        simp [offeredByAll, offeredBy]
      exact ⟨b, r, tk, fun hx => hb (hx.imp id (by simp)), by rw [List.length_cons, run_succ hst, hc]; exact e⟩
    | advance =>
      obtain ⟨b, r, tk, hb, e⟩ := ih (advance (s.setSchedule (ms ++ tail)).dropPulses) tail h hi rfl hq'
      exact ⟨b, r, tk, fun hx => hb (hx.imp id (by simp)), by rw [List.length_cons, run_succ hst, e]; rfl⟩
    | change v =>
      obtain ⟨b, r, tk, hb, e⟩ := ih (change v (s.setSchedule (ms ++ tail)).dropPulses) tail h hi rfl hq'
      exact ⟨b, r, tk, fun hx => hb (hx.imp id (by simp)), by rw [List.length_cons, run_succ hst, e]; rfl⟩

/-- A quiet round, then the acknowledge: `Poll` on the state with the devices moved on. -/
theorem run_round (ms : List Move) (s : State) (tail : List Move) (h : s.live)
    (hseq : s.seq = .pollBlank ∨ s.seq = .pollDraw) (hs : s.schedule = ms ++ .ack :: tail) (hq : quietRound ms) :
    run (ms.length + 1) s = .next (poll { s with
      schedule := tail, vcount := countAfterAll s.cfg s.vcount ms, keyraw := keysAfterAll s.keyraw ms,
      cmds := s.cmds ++ offeredByAll ms, busReq := false, rsp := none, tick := false }) := by
  obtain ⟨b, r, tk, hb, e⟩ := run_quiet ms s (.ack :: tail) h (by rcases hseq with h | h <;> simp [h]) hs hq.2
  rw [run_add e, run_succ (step_ack_poll (ms := tail) (by exact h) (by exact hb (.inr hq.1)) (by exact hseq) rfl)]
  rcases hseq with hseq | hseq
  · rw [poll_blank _ (by simpa using hseq), poll_blank _ (by simpa using hseq)]
    rfl
  · rw [poll_draw _ (by simp [hseq]), poll_draw _ (by simp [hseq])]
    rfl

@[simp] theorem advances_nil : advances [] = 0 := rfl

theorem advances_append (xs ys : List Move) : advances (xs ++ ys) = advances xs + advances ys := by
  simp [advances]

/-- The counter after some moves is as many lines on as there are Display steps among them (R147). -/
theorem countAfterAll_toNat {c : Config} (hv : configRefusal c = none) (ms : List Move) :
    ∀ v : Half, v.toNat < c.lines → (countAfterAll c v ms).toNat = (v.toNat + advances ms) % c.lines := by
  induction ms with
  | nil => intro v h; simp [countAfterAll, Nat.mod_eq_of_lt h]
  | cons m ms ih =>
    intro v h
    have hl := (valid_bounds hv).1
    rw [show countAfterAll c v (m :: ms) = countAfterAll c (countAfter c v m) ms from rfl]
    by_cases hm : m = .advance
    · subst hm
      have e : (countAfter c v .advance).toNat = (v.toNat + 1) % c.lines := nextCount_toNat hv v
      rw [ih _ (by rw [e]; exact Nat.mod_lt _ (by omega)), e, Nat.mod_add_mod]
      simp [advances, Nat.add_assoc, Nat.add_comm 1]
    · have e : countAfter c v m = v := by cases m <;> first | rfl | exact absurd rfl hm
      rw [e, ih v h]
      simp [advances, hm]

theorem pollPlan_cons (ms : List Move) (p : List (List Move)) :
    pollPlan (ms :: p) = ms ++ .ack :: pollPlan p := by simp [pollPlan]

theorem pollPlan_append (p q : List (List Move)) : pollPlan (p ++ q) = pollPlan p ++ pollPlan q := by
  simp [pollPlan]

theorem planSamples_append (c : Config) (p q : List (List Move)) : ∀ v,
    planSamples c v (p ++ q) = planSamples c v p ++ planSamples c (countAfterAll c v p.flatten) q := by
  induction p with
  | nil => intro v; rfl
  | cons ms p ih => intro v; simp [planSamples, ih, countAfterAll]

theorem planSamples_length (c : Config) (p : List (List Move)) : ∀ v, (planSamples c v p).length = p.length := by
  induction p with
  | nil => intro v; rfl
  | cons ms p ih => intro v; simp [planSamples, ih]

/-- A plan splits where its samples split. -/
theorem planSamples_split {c : Config} {v : Half} {plan : List (List Move)} {xs ys : List Half}
    (h : planSamples c v plan = xs ++ ys) :
    ∃ p q, plan = p ++ q ∧ planSamples c v p = xs ∧ planSamples c (countAfterAll c v p.flatten) q = ys := by
  refine ⟨plan.take xs.length, plan.drop xs.length, by simp, ?_⟩
  have hl := congrArg List.length h
  rw [planSamples_length, List.length_append] at hl
  have h' := h
  rw [← List.take_append_drop xs.length plan, planSamples_append] at h'
  exact List.append_inj h' (by rw [planSamples_length, List.length_take]; omega)

/-- The last sample of a plan is the counter after the plan. -/
theorem planSamples_last {c : Config} {v : Half} {plan : List (List Move)} {ys : List Half} {y : Half}
    (h : planSamples c v plan = ys ++ [y]) : countAfterAll c v plan.flatten = y := by
  obtain ⟨p, q, rfl, _, h2⟩ := planSamples_split h
  have hq : q.length = 1 := by rw [← planSamples_length c q (countAfterAll c v p.flatten), h2]; rfl
  match q, hq with
  | [ms], _ =>
    simp only [planSamples, List.cons.injEq, and_true] at h2
    simpa [countAfterAll] using h2

/-- A plan of polls none of which ends the wait: the reads, and nothing else of the block (R103). -/
theorem run_spin (plan : List (List Move)) : ∀ (s : State) (tail : List Move), s.live →
    (s.seq = .pollBlank ∧ ∀ x ∈ planSamples s.cfg s.vcount plan, x.toNat < s.cfg.blankThreshold.toNat)
      ∨ (s.seq = .pollDraw ∧ ∀ x ∈ planSamples s.cfg s.vcount plan, s.cfg.blankThreshold.toNat ≤ x.toNat) →
    s.schedule = pollPlan plan ++ tail → quietPlan plan →
    ∃ b r tk, run (pollPlan plan).length s = .next { s with
      schedule := tail, vcount := countAfterAll s.cfg s.vcount plan.flatten,
      keyraw := keysAfterAll s.keyraw plan.flatten, cmds := s.cmds ++ offeredByAll plan.flatten, busReq := b, rsp := r,
      tick := tk, history := s.history ++ timingReads s.cfg (planSamples s.cfg s.vcount plan) } := by
  induction plan with
  | nil =>
    intro s tail _ _ hs _
    refine ⟨s.busReq, s.rsp, s.tick, ?_⟩
    have : s.schedule = tail := by simpa [pollPlan] using hs
    subst this
    simp [pollPlan, timingReads, planSamples, offeredByAll]
    rfl
  | cons ms plan ih =>
    intro s tail h hx hs hq
    rw [pollPlan_cons] at hs ⊢
    have hr := run_round ms s (pollPlan plan ++ tail) h (hx.imp (·.1) (·.1)) (by rw [hs]; simp)
      (hq ms (by simp))
    have hp : poll { s with
        schedule := pollPlan plan ++ tail, vcount := countAfterAll s.cfg s.vcount ms,
        keyraw := keysAfterAll s.keyraw ms, cmds := s.cmds ++ offeredByAll ms, busReq := false, rsp := none,
        tick := false } = { s with
        schedule := pollPlan plan ++ tail, vcount := countAfterAll s.cfg s.vcount ms,
        keyraw := keysAfterAll s.keyraw ms, cmds := s.cmds ++ offeredByAll ms, busReq := false, rsp := none, tick := false,
        history := s.history ++ [.read s.cfg.timingAddr (countAfterAll s.cfg s.vcount ms)] } := by
      rcases hx with ⟨h1, h2⟩ | ⟨h1, h2⟩
      · rw [poll_blank _ (by exact h1), if_neg (by
          rw [blanking_iff]
          have := h2 (countAfterAll s.cfg s.vcount ms) (by simp [planSamples])
          simpa using this)]
        rfl
      · rw [poll_draw _ (by simp [h1]), if_neg (by
          rw [drawable_iff]
          have := h2 (countAfterAll s.cfg s.vcount ms) (by simp [planSamples])
          simpa using this)]
        rfl
    rw [hp] at hr
    rw [show (ms ++ Move.ack :: pollPlan plan).length = ms.length + 1 + (pollPlan plan).length by simp; omega,
      run_add hr]
    obtain ⟨b, r, tk, e⟩ := ih (tail := tail) (s := { s with
        schedule := pollPlan plan ++ tail, vcount := countAfterAll s.cfg s.vcount ms,
        keyraw := keysAfterAll s.keyraw ms, cmds := s.cmds ++ offeredByAll ms, busReq := false, rsp := none, tick := false,
        history := s.history ++ [.read s.cfg.timingAddr (countAfterAll s.cfg s.vcount ms)] }) h (by
        rcases hx with ⟨h1, h2⟩ | ⟨h1, h2⟩
        · exact .inl ⟨h1, fun x hx => h2 x (by rw [planSamples]; exact List.mem_cons_of_mem _ hx)⟩
        · exact .inr ⟨h1, fun x hx => h2 x (by rw [planSamples]; exact List.mem_cons_of_mem _ hx)⟩)
      rfl (fun m hm => hq m (by simp [hm]))
    refine ⟨b, r, tk, ?_⟩
    rw [e]
    simp [planSamples, timingReads, countAfterAll, keysAfterAll, offeredByAll]

/-- A plan of polls all but the last of which leave the wait polling: the reads, then `Poll` on the last sample. -/
theorem run_wait (plan : List (List Move)) (s : State) (tail : List Move) (ys : List Half) (y : Half) (h : s.live)
    (hx : (s.seq = .pollBlank ∧ ∀ x ∈ ys, x.toNat < s.cfg.blankThreshold.toNat)
      ∨ (s.seq = .pollDraw ∧ ∀ x ∈ ys, s.cfg.blankThreshold.toNat ≤ x.toNat))
    (hy : planSamples s.cfg s.vcount plan = ys ++ [y]) (hs : s.schedule = pollPlan plan ++ tail)
    (hq : quietPlan plan) :
    run (pollPlan plan).length s = .next (poll { s with
      schedule := tail, vcount := y, keyraw := keysAfterAll s.keyraw plan.flatten,
      cmds := s.cmds ++ offeredByAll plan.flatten, busReq := false, rsp := none, tick := false,
      history := s.history ++ timingReads s.cfg ys }) := by
  obtain ⟨p, ms, rfl⟩ : ∃ p ms, plan = p ++ [ms] := by
    rcases List.eq_nil_or_concat plan with rfl | ⟨p, ms, rfl⟩
    · simp [planSamples] at hy
    · exact ⟨p, ms, by simp⟩
  rw [planSamples_append] at hy
  obtain ⟨h1, h2⟩ := List.append_inj' hy (by simp [planSamples])
  simp only [planSamples, List.cons.injEq, and_true] at h2
  subst h1
  rw [pollPlan_append] at hs
  obtain ⟨b, r, tk, e⟩ := run_spin p s (pollPlan [ms] ++ tail) h hx (by rw [hs]; simp)
    (fun m hm => hq m (by simp [hm]))
  rw [pollPlan_append, List.length_append, run_add e]
  have e2 := run_round ms (tail := tail) (s := { s with
      schedule := pollPlan [ms] ++ tail, vcount := countAfterAll s.cfg s.vcount p.flatten,
      keyraw := keysAfterAll s.keyraw p.flatten, cmds := s.cmds ++ offeredByAll p.flatten, busReq := b, rsp := r,
      tick := tk,
      history := s.history ++ timingReads s.cfg (planSamples s.cfg s.vcount p) }) h (hx.imp (·.1) (·.1))
    (by simp [pollPlan]) (hq ms (by simp))
  rw [show (pollPlan [ms]).length = ms.length + 1 by simp [pollPlan], e2]
  subst h2
  simp [keysAfterAll, offeredByAll, List.foldl_append]

end Sys2Proof.Machine
end

