-- ==== Sys2Proof/Laws/Fair.lean ====
section
/-! SUPPORT. Endless schedules: what is left on a schedule is not looked at by the moves before it, so `along` unrolls at
its end (R172), and how the lists of moves between two points of a schedule are put together. -/

namespace Sys2Proof.Machine

/-- No move looks at the moves after it. -/
theorem effect_setSchedule {m : Move} {s t : State} (l : List Move) (h : Effect s m t) :
    Effect (s.setSchedule l) m (t.setSchedule l) := by
  cases h with
  | idle hf hs hc => exact .idle hf hs hc
  | accept w rest hf hs hc =>
    have e : (afterAccept w (s.setCmds rest)).setSchedule l = afterAccept w ((s.setSchedule l).setCmds rest) := by
      unfold afterAccept
      cases decode w with
      | ok i => cases i <;> rfl
      | error _ => rfl
    exact e ▸ .accept w rest hf hs hc
  | request hf hs => exact .request hf hs
  | poll hf hb hs =>
    have e : (poll s).setSchedule l = poll (s.setSchedule l) := by
      rcases hs with hs | hs
      · rw [poll_blank _ hs, poll_blank (s.setSchedule l) hs]
        split_ifs <;> first | rfl | contradiction
      · rw [poll_draw _ (by simp [hs]), poll_draw (s.setSchedule l) (by simp [hs])]
        split_ifs <;> first | rfl | contradiction
    exact e ▸ .poll hf hb hs
  | keyRead hf hb hs => exact .keyRead hf hb hs
  | noRead h => exact .noRead h
  | offer w hf => exact .offer w hf
  | advance => exact .advance
  | change v => exact .change v
  | reset => exact .reset

/-- A run of a list of moves leaves none of them, and is the same run when more moves stand behind them. -/
theorem run_moves (ms : List Move) : ∀ (s u : State) (tail : List Move),
    run ms.length { s with schedule := ms } = .next u →
      u.schedule = [] ∧ run ms.length { s with schedule := ms ++ tail } = .next { u with schedule := tail } := by
  induction ms with
  | nil => intro s u tail h; cases h; exact ⟨rfl, rfl⟩
  | cons m ms ih =>
    intro s u tail h
    cases hs : step { s with schedule := m :: ms } with
    | next x =>
      rw [List.length_cons, run_succ hs] at h
      obtain ⟨hc, he⟩ := step_next hs
      have hx : x.schedule = ms := by
        have := effect_setSchedule ms he
        have e := runMove_of_effect this
        rw [show State.setSchedule ms (nextMove { s with schedule := m :: ms }).2.dropPulses
          = (nextMove { s with schedule := m :: ms }).2.dropPulses from rfl, runMove_of_effect he] at e
        have := congrArg State.schedule (Host.Outcome.next.inj e)
        simpa using this
      have hs' : step { s with schedule := m :: (ms ++ tail) } = .next { x with schedule := ms ++ tail } := by
        refine step_of_effect hc ?_
        exact effect_setSchedule (ms ++ tail) he
      obtain ⟨h1, h2⟩ := ih x u tail (by rw [← hx] at h ⊢; exact h)
      exact ⟨h1, by rw [List.length_cons, List.cons_append, run_succ hs', h2]⟩
    | fault f => simp [run, hs] at h
    | refused r => simp [run, hs] at h

/-! ### Moves of an endless schedule -/

@[simp] theorem movesFrom_length (sched : Nat → Move) (i n : Nat) : (movesFrom sched i n).length = n := by
  simp [movesFrom]

@[simp] theorem movesFrom_zero (sched : Nat → Move) (i : Nat) : movesFrom sched i 0 = [] := rfl

theorem movesFrom_add (sched : Nat → Move) (i m n : Nat) :
    movesFrom sched i (m + n) = movesFrom sched i m ++ movesFrom sched (i + m) n := by
  rw [movesFrom, ← List.range'_append_1, List.map_append]
  rfl

theorem movesFrom_succ (sched : Nat → Move) (i n : Nat) :
    movesFrom sched i (n + 1) = movesFrom sched i n ++ [sched (i + n)] := by
  rw [movesFrom_add]
  rfl

/-! ### Along an endless schedule -/

@[simp] theorem along_zero (sched : Nat → Move) (s : State) : along sched s 0 = .next { s with schedule := [] } := rfl

/-- Nothing is left of the moves that were given. -/
theorem along_schedule {sched : Nat → Move} {s u : State} {k : Nat} (h : along sched s k = .next u) :
    u.schedule = [] :=
  (run_moves (movesFrom sched 0 k) s u [] (by simpa [along] using h)).1

/-- One move more. -/
theorem along_succ {sched : Nat → Move} {s u : State} {k : Nat} (h : along sched s k = .next u)
    (hc : configRefusal u.cfg = none) : along sched s (k + 1) = runMove (sched k) u.dropPulses := by
  have hr := (run_moves (movesFrom sched 0 k) s u [sched k] (by simpa [along] using h)).2
  rw [movesFrom_length] at hr
  have hu := along_schedule h
  rw [along, movesFrom_succ, Nat.zero_add, run_add hr]
  have hs : step { u with schedule := [sched k] } = runMove (sched k) u.dropPulses := by
    have e : State.setSchedule [] { u with schedule := [sched k] } = u := by
      obtain ⟨⟩ := u
      cases hu
      rfl
    rw [step_scheduled (s := { u with schedule := [sched k] }) (rest := []) hc rfl, e]
  rw [← hs]
  cases he : step { u with schedule := [sched k] } with
  | next x => rw [run_succ he]; rfl
  | fault f => simp [run, he]
  | refused r => simp [run, he]

/-- One move of a command in progress, reset apart: it goes on or its response is out; while it goes on, the request
follows R64 and only an answered request moves the sequencer, from the blank half to the draw half (R103, R120). -/
theorem runMove_in_progress {c : Config} {u : State} {m : Move} (hl : u.live) (hq : u.seq ≠ .idle) (hc : u.cfg = c)
    (hm : m ≠ .reset) :
    ∃ t, runMove m u.dropPulses = .next t ∧ t.live ∧ t.cfg = c ∧ t.vcount = countAfter c u.vcount m
      ∧ (t.seq ≠ .idle ∨ t.rsp ≠ none)
      ∧ (t.seq ≠ .idle →
        t.busReq = (if m = .block then true else if m = .ack then false else u.busReq)
          ∧ (¬ (m = .ack ∧ u.busReq = true) → t.seq = u.seq)
          ∧ (m = .ack ∧ u.busReq = true → u.seq ≠ .readKey
            ∧ (u.seq = .pollBlank →
              t.seq = .pollDraw ∨ (t.seq = .pollBlank ∧ u.vcount.toNat < c.blankThreshold.toNat))
            ∧ (u.seq = .pollDraw → t.seq = .pollDraw ∧ c.blankThreshold.toNat ≤ u.vcount.toNat))) := by
  subst hc
  obtain ⟨hv, hf0⟩ := hl
  have hf : u.dropPulses.fault = none := hf0
  have hq' : u.dropPulses.seq ≠ .idle := hq
  cases m with
  | reset => exact absurd rfl hm
  | block => exact ⟨_, runMove_of_effect (.request hf hq'), ⟨hv, hf0⟩, rfl, rfl, .inl hq, fun _ => by simp⟩
  | offer w => exact ⟨_, runMove_of_effect (.offer w hf), ⟨hv, hf0⟩, rfl, rfl, .inl hq, fun _ => by simp⟩
  | advance => exact ⟨_, rfl, ⟨hv, hf0⟩, rfl, rfl, .inl hq, fun _ => by simp [advance]⟩
  | change v => exact ⟨_, rfl, ⟨hv, hf0⟩, rfl, rfl, .inl hq, fun _ => by simp [change]⟩
  | ack =>
    by_cases hb : u.busReq = true
    · by_cases hk : u.seq = .readKey
      · refine ⟨_, runMove_of_effect (.keyRead hf hb hk), ?_⟩
        rw [keyRead_eq]
        exact ⟨⟨by simpa using hv, by simpa using hf0⟩, by simp, by simp [countAfter], .inr (by simp),
          fun h => absurd (by simp) h⟩
      · have hp : u.dropPulses.seq = .pollBlank ∨ u.dropPulses.seq = .pollDraw := by
          cases h : u.seq <;> simp_all
        refine ⟨_, runMove_of_effect (.poll hf hb hp), ?_⟩
        rcases poll_cases _ hp with ⟨e, h⟩ | ⟨e, h⟩ | ⟨e, h⟩ | ⟨e, h⟩ | ⟨e, h⟩
        · rw [e]
          refine ⟨⟨hv, hf0⟩, rfl, rfl, .inl hq, fun _ => ⟨by simp, by simp [hb], fun _ => ⟨hk, fun h1 => ?_, fun h1 => ?_⟩⟩⟩
          · rcases h with h | h
            · exact .inr h
            · exact absurd (h1.symm.trans h.1) (by simp)
          · rcases h with h | h
            · exact absurd (h1.symm.trans h.1) (by simp)
            · exact h
        · rw [e]
          exact ⟨⟨by simpa using hv, by simpa using hf0⟩, by simp, by simp [countAfter], .inl (by simp),
            fun _ => ⟨by simp, by simp [hb], fun _ =>
              ⟨hk, fun _ => .inl rfl, fun h1 => absurd (h1.symm.trans h.1) (by simp)⟩⟩⟩
        all_goals
          rw [e]
          exact ⟨⟨by simpa using hv, by simpa using hf0⟩, by simp, by simp [countAfter], .inr (by simp),
            fun h => absurd (by simp) h⟩
    · exact ⟨_, runMove_of_effect (.noRead fun h => absurd h hb), ⟨hv, hf0⟩, rfl, rfl, .inl hq, fun _ => by simp [hb]⟩

end Sys2Proof.Machine
end

