-- ==== Sys2Proof/Laws/PerInstr.lean ====
section
/-! SUPPORT. Statements made of every instruction, one lemma per constructor. -/

namespace Sys2Proof.Laws.EncodedAsItsRow

/-- The `OP` value of the instruction's row (R83). -/
def opOf : Instr → BitVec 4
  | .waitblank => 0x1#4
  | .waitdraw => 0x2#4
  | .sync => 0x3#4
  | .readkeys => 0x4#4
  | .ispressed _ _ => 0x5#4

/-- Field `A`: an operand of `ISPRESSED`, zero in every other command (R81). -/
def aOf : Instr → Mask10
  | .waitblank => 0#10
  | .waitdraw => 0#10
  | .sync => 0#10
  | .readkeys => 0#10
  | .ispressed mask _ => mask

/-- Field `B`: an operand of `ISPRESSED`, zero in every other command (R81). -/
def bOf : Instr → Mask10
  | .waitblank => 0#10
  | .waitdraw => 0#10
  | .sync => 0#10
  | .readkeys => 0#10
  | .ispressed _ button => button

/-- The five fields of the instruction's command word are those of its row: `OP`, the operands, and zero where the format
reserves bits (R81, R83). -/
def Statement (i : Instr) : Prop :=
  fieldOp (encode i) = opOf i ∧ fieldZ1 (encode i) = 0#2 ∧ fieldA (encode i) = aOf i
    ∧ fieldZ2 (encode i) = 0#6 ∧ fieldB (encode i) = bOf i

theorem waitblank : Statement .waitblank := by unfold Statement; decide

theorem waitdraw : Statement .waitdraw := by unfold Statement; decide

theorem sync : Statement .sync := by unfold Statement; decide

theorem readkeys : Statement .readkeys := by unfold Statement; decide

theorem ispressed (mask button : Mask10) : Statement (.ispressed mask button) := by
  simp [Statement, encode, opOf, aOf, bOf]

end Sys2Proof.Laws.EncodedAsItsRow
end

