-- ==== Sys2Proof/Tests/Slice0.lean ====
section
/-! SUPPORT. The model's own tests: words written out from the encoding, ill-formed terms that are refused, single steps
with the results 95_test_vectors.md gives, and for each obligation with hypotheses a state that meets them. -/

namespace Sys2Proof.Tests

open Sys2Proof.Machine

/-! ### Helpers -/

/-- A state of the default configuration. -/
def st (q : Seq) (c : Bool) (p : Phase) (v k : Half) (ws : List Word) (ms : List Move) : State :=
  { State.reset with seq := q, chain := c, phase := p, vcount := v, keyraw := k, cmds := ws, schedule := ms }

/-- A state whose request stands: an acknowledge is a read. -/
def asked (q : Seq) (c : Bool) (p : Phase) (v k : Half) (ms : List Move) : State :=
  { st q c p v k [] ms with busReq := true }

/-- What an outcome holds, if it is a next state. -/
def got {α : Type} (f : State → α) : Host.Outcome State Fault Refusal → Option α
  | .next t => some (f t)
  | .fault _ => none
  | .refused _ => none

/-- The refusal, if the outcome is one. -/
def gotRefusal : Host.Outcome State Fault Refusal → Option Refusal
  | .next _ => none
  | .fault _ => none
  | .refused r => some r

/-- The default configuration with another threshold and period. -/
def cfgWith (n : Half) (lines : Nat) : Config := { Config.default with blankThreshold := n, lines := lines }

/-! ### Decoding (95_test_vectors.md section 2; R81) -/

/-- `OP = 0001`, all else 0. -/
theorem test_decode_waitblank : decode 0b00010000000000000000000000000000#32 = .ok .waitblank := by decide

/-- `OP = 0010`, all else 0. -/
theorem test_decode_waitdraw : decode 0b00100000000000000000000000000000#32 = .ok .waitdraw := by decide

/-- `OP = 0011`, all else 0. -/
theorem test_decode_sync : decode 0b00110000000000000000000000000000#32 = .ok .sync := by decide

/-- `OP = 0100`, all else 0. -/
theorem test_decode_readkeys : decode 0b01000000000000000000000000000000#32 = .ok .readkeys := by decide

/-- `OP = 0101`, `Z1 = 00`, `A = 1010101010`, `Z2 = 000000`, `B = 0101010101`. -/
theorem test_decode_ispressed :
    decode 0b01010010101010100000000101010101#32 = .ok (.ispressed 0x2AA#10 0x155#10) := by decide

/-- The smallest and the largest legal word of `ISPRESSED`. -/
theorem test_decode_ispressed_ends :
    decode 0x50000000#32 = .ok (.ispressed 0#10 0#10)
      ∧ decode 0x53FF03FF#32 = .ok (.ispressed 0x3FF#10 0x3FF#10) := by decide

/-- Every illegal row of the section, with the name of what is wrong. -/
theorem test_decode_illegal :
    decode 0x00000000#32 = .error .reservedOp
      ∧ decode 0xFFFFFFFF#32 = .error .reservedOp
      ∧ decode 0x60000000#32 = .error .reservedOp
      ∧ decode 0x10000001#32 = .error .operandNotZero
      ∧ decode 0x40010000#32 = .error .operandNotZero
      ∧ decode 0x14000000#32 = .error .z1NotZero
      ∧ decode 0x58000000#32 = .error .z1NotZero
      ∧ decode 0x50000400#32 = .error .z2NotZero
      ∧ decode 0x30008000#32 = .error .z2NotZero := by decide

/-- The encoder gives the match values of the opcode map. -/
theorem test_encode_rows :
    encode .waitblank = 0x10000000#32 ∧ encode .waitdraw = 0x20000000#32 ∧ encode .sync = 0x30000000#32
      ∧ encode .readkeys = 0x40000000#32 ∧ encode (.ispressed 0x0C0#10 0x040#10) = 0x50C00040#32 := by decide

/-- The host's entry to the decoder, on one word of each row of the opcode table. -/
theorem test_decodeTableWord :
    decodeTableWord 32 0x10000000 = some .waitblank ∧ decodeTableWord 32 0x20000000 = some .waitdraw
      ∧ decodeTableWord 32 0x30000000 = some .sync ∧ decodeTableWord 32 0x40000000 = some .readkeys
      ∧ decodeTableWord 32 0x50400040 = some (.ispressed 0x040#10 0x040#10)
      ∧ decodeTableWord 32 0x60000000 = none := by decide

/-! ### Well-formedness: each check refuses (R6, R86; section 7) -/

theorem test_config_default_valid : Config.default.valid = true ∧ configRefusal Config.default = none := by decide

/-- G1. -/
theorem test_config_timing_misaligned :
    ({ Config.default with timingAddr := 0x04000007#32 }).valid = false
      ∧ configRefusal { Config.default with timingAddr := 0x04000007#32 } = some .timingMisaligned := by decide

/-- G2. -/
theorem test_config_keypad_misaligned :
    ({ Config.default with keypadAddr := 0x04000131#32 }).valid = false
      ∧ configRefusal { Config.default with keypadAddr := 0x04000131#32 } = some .keypadMisaligned := by decide

/-- G3. -/
theorem test_config_same_address :
    ({ Config.default with timingAddr := 0x04000130#32 }).valid = false
      ∧ configRefusal { Config.default with timingAddr := 0x04000130#32 } = some .sameAddress := by decide

/-- G4, G5: `N = 0` and `N = LINES`. -/
theorem test_config_threshold :
    (cfgWith 0#16 228).valid = false ∧ configRefusal (cfgWith 0#16 228) = some .thresholdOutOfRange
      ∧ (cfgWith 228#16 228).valid = false
      ∧ configRefusal (cfgWith 228#16 228) = some .thresholdOutOfRange := by decide

/-- G6, G8: the nearest accepted neighbours and the extreme. -/
theorem test_config_accepted_ends :
    configRefusal (cfgWith 1#16 228) = none ∧ configRefusal (cfgWith 227#16 228) = none
      ∧ configRefusal (cfgWith 65535#16 65536) = none ∧ configRefusal (cfgWith 1#16 2) = none := by decide

/-- G7, and one line too many. -/
theorem test_config_lines :
    (cfgWith 1#16 1).valid = false ∧ configRefusal (cfgWith 1#16 1) = some .linesOutOfRange
      ∧ (cfgWith 1#16 65537).valid = false
      ∧ configRefusal (cfgWith 1#16 65537) = some .linesOutOfRange := by decide

/-- R66: nothing mapped at one of the addresses. -/
theorem test_config_unmapped :
    ({ Config.default with timingMapped := false }).valid = false
      ∧ ({ Config.default with keypadMapped := false }).valid = false
      ∧ configRefusal { Config.default with timingMapped := false } = some .unmapped
      ∧ configRefusal { Config.default with keypadMapped := false } = some .unmapped := by decide

/-- R86: an operand is a 10-bit number or at least one name. -/
theorem test_operand_check :
    (Operand.num 1023).wellFormed = true ∧ (Operand.num 1024).wellFormed = false
      ∧ (Operand.names [.up, .down]).wellFormed = true ∧ (Operand.names []).wellFormed = false := by decide

/-- R86: a line with an ill-formed operand is ill formed and has no command words. -/
theorem test_line_check :
    (AsmLine.ispressed (.num 1024) (.names [.up])).wellFormed = false
      ∧ (AsmLine.ispressed (.num 0) (.names [])).wellFormed = false
      ∧ assemble 0#10 (.ispressed (.num 1024) (.names [.up])) = none := by decide

/-! ### The assembler (R86, R87; section 8) -/

/-- The constants `KEY_UP`, `KEY_DOWN`, `KEY_A`, `KEY_L` of R28. -/
theorem test_button_constants :
    buttonMask .up = 0x040#10 ∧ buttonMask .down = 0x080#10 ∧ buttonMask .a = 0x001#10
      ∧ buttonMask .l = 0x200#10 := by decide

/-- P4: `ISPRESSED 0x0C0, KEY_UP|KEY_DOWN` is `0x50C000C0`; the comment is dropped. -/
theorem test_assemble_ispressed :
    assembleText 0#10 ['I', 'S', 'P', 'R', 'E', 'S', 'S', 'E', 'D', ' ', '0', 'x', '0', 'C', '0', ',', ' ', 'K', 'E', 'Y',
      '_', 'U', 'P', '|', 'K', 'E', 'Y', '_', 'D', 'O', 'W', 'N', ' ', ';', ' ', 'x'] = some [0x50C000C0#32] := by
  decide

/-- R87: the three pseudo-instructions. `m` is what the last `READKEYS` answered. -/
theorem test_assemble_pseudo :
    assembleText 0#10 ['T', 'I', 'C', 'K'] = some [0x30000000#32]
      ∧ assembleText 0#10 ['V', 'S', 'Y', 'N', 'C', '2'] = some [0x10000000#32, 0x20000000#32]
      ∧ assembleText 0x040#10 ['H', 'E', 'L', 'D', ' ', 'U', 'P'] = some [0x50400040#32] := by decide

/-- Numbers: decimal and binary. A mnemonic in lower case is not read. -/
theorem test_assemble_numbers :
    readOperand ['6', '4'] = some (.num 64) ∧ readOperand ['0', 'b', '1', '0', '1'] = some (.num 5)
      ∧ readOperand ['0', 'x', '3', 'F', 'F'] = some (.num 1023) ∧ readOperand ['K', 'E', 'Y', '_', 'Q'] = none
      ∧ assembleText 0#10 ['s', 'y', 'n', 'c'] = none := by decide

/-! ### Single steps (sections 3 to 8) -/

/-- R89, R102: an accepted `SYNC` polls for blank with `CHAIN = 1` and reads nothing. -/
theorem test_sync_accepted :
    got (fun t => (t.control, t.history, t.rsp)) (step (st .idle false .drawPhase 100#16 0#16 [0x30000000#32] [.block]))
      = some ((.pollBlank, true), [.cmd 0x30000000#32], none) := by decide

/-- R101: an accepted `WAITDRAW` polls for draw, and leaves `PHASE`. -/
theorem test_waitdraw_accepted :
    got (fun t => (t.control, t.phase)) (step (st .idle false .blankPhase 0#16 0#16 [0x20000000#32] [.block]))
      = some ((.pollDraw, false), .blankPhase) := by decide

/-- W1: sample 159 does not end a blank wait. -/
theorem test_blank_poll_below :
    got (fun t => (t.seq, t.rsp, t.history)) (step (asked .pollBlank false .drawPhase 159#16 0#16 [.ack]))
      = some (.pollBlank, none, [.read 0x04000006#32 159#16]) := by decide

/-- W1: sample 160 ends it. -/
theorem test_blank_poll_at :
    got (fun t => (t.seq, t.phase, t.rsp, t.tick)) (step (asked .pollBlank false .drawPhase 160#16 0#16 [.ack]))
      = some (.idle, .blankPhase, some 0#16, false) := by decide

/-- Y1: the poll that ends the blank half of a `SYNC` goes on to the draw half without a response. -/
theorem test_sync_chains :
    got (fun t => (t.control, t.phase, t.rsp)) (step (asked .pollBlank true .drawPhase 160#16 0#16 [.ack]))
      = some ((.pollDraw, false), .blankPhase, none) := by decide

/-- X4: sample 159 ends a draw wait, with a tick after a blank wait. -/
theorem test_draw_poll_ticks :
    got (fun t => (t.seq, t.phase, t.rsp, t.tick, t.history))
        (step (asked .pollDraw false .blankPhase 159#16 0#16 [.ack]))
      = some (.idle, .drawPhase, some 1#16, true, [.read 0x04000006#32 159#16, .tick, .rsp 1#16]) := by decide

/-- X2: without one, after reset, no tick. -/
theorem test_draw_poll_no_tick :
    got (fun t => (t.seq, t.rsp, t.tick)) (step (asked .pollDraw false .drawPhase 50#16 0#16 [.ack]))
      = some (.idle, some 0#16, false) := by decide

/-- Section 3: sample `0x0100` is 256, not 0 in its low byte; `0xFFFF` is not negative. -/
theorem test_comparison_is_unsigned_16 :
    blanking Config.default 0x0100#16 = true ∧ drawable Config.default 0x0100#16 = false
      ∧ blanking Config.default 0xFFFF#16 = true ∧ blanking Config.default 0x009F#16 = false := by decide

/-- I1: `KeyRead` of `0x03BF`, active low, answers `KEY_UP`. -/
theorem test_keyread :
    got (fun t => (t.seq, t.rsp, t.history)) (step (asked .readKey false .drawPhase 0#16 0x03BF#16 [.ack]))
      = some (.idle, some 0x0040#16, [.read 0x04000130#32 0x03BF#16, .rsp 0x0040#16]) := by decide

/-- Section 5: bits 15:10 are cleared in either polarity. -/
theorem test_decodeKeys :
    decodeKeys Config.default 0xFC00#16 = 0x03FF#16 ∧ decodeKeys Config.default 0x8001#16 = 0x03FE#16
      ∧ decodeKeys { Config.default with keyActiveLow := false } 0x8001#16 = 0x0001#16 := by decide

/-- P4: up and down held, any of the two asked about. -/
theorem test_ispressed_any_of :
    got (fun t => (t.seq, t.rsp, t.history)) (step (st .idle false .blankPhase 0#16 0#16 [0x50C000C0#32] [.block]))
      = some (.idle, some 1#16, [.cmd 0x50C000C0#32, .rsp 1#16]) := by decide

/-- Section 6: everything but `L`. -/
theorem test_ispressed_none :
    got (·.rsp) (step (st .idle false .drawPhase 0#16 0#16 [0x51FF0200#32] [.block])) = some (some 0#16) := by decide

/-- P6: an illegal word sets `FAULT`, gets no response, and leaves the next word on offer. -/
theorem test_illegal_word :
    got (fun t => (t.fault, t.rsp, t.seq))
        (step (st .idle false .drawPhase 0#16 0#16 [0x00000000#32, 0x30000000#32] [.block]))
      = some (some (.illegalCommand 0#32), none, .idle)
    ∧ got (fun t => (t.cmds, t.history))
        (step (st .idle false .drawPhase 0#16 0#16 [0x00000000#32, 0x30000000#32] [.block]))
      = some ([0x30000000#32], [.cmd 0#32, .fault (.illegalCommand 0#32)]) := by decide

/-- R147: the counter wraps from `LINES - 1` to 0. -/
theorem test_advance_wraps :
    got (·.vcount) (step (st .idle false .drawPhase 227#16 0#16 [] [.advance])) = some 0#16
      ∧ got (·.vcount) (step (st .idle false .drawPhase 159#16 0#16 [] [.advance])) = some 160#16 := by decide

/-- R64, R65: the block raises its request and holds it, with its address, while the bus has not answered. -/
theorem test_request_stands :
    got (fun t => (t.busReq, t.busAddr, t.history)) 
        (run 3 (st .readKey false .drawPhase 0#16 0#16 [] [.block, .advance, .block]))
      = some (true, some 0x04000130#32, []) := by decide

/-- R64, R161: an acknowledge reads only for a request that stands; one that comes late, after a reset, is ignored. -/
theorem test_ack_without_request :
    got (fun t => (t.seq, t.history)) (step (st .pollBlank false .drawPhase 160#16 0#16 [] [.ack]))
      = some (.pollBlank, [])
    ∧ got (fun t => (t.seq, t.history)) (run 2 (asked .pollBlank false .drawPhase 160#16 0#16 [.reset, .ack]))
      = some (.idle, [.reset]) := by decide

/-- Z2: reset in the draw half of a `SYNC`. -/
theorem test_reset_abandons :
    got (fun t => (t.control, t.phase, t.rsp, t.tick))
        (step (st .pollDraw false .blankPhase 7#16 0#16 [] [.reset]))
      = some ((.idle, false), .drawPhase, none, false)
    ∧ got (fun t => (t.vcount, t.history)) (step (st .pollDraw false .blankPhase 7#16 0#16 [] [.reset]))
      = some (7#16, [.reset]) := by decide

/-- The word placed by the host is what the very next step runs, on the state after reset, row by row. -/
theorem test_fetched_word_runs :
    got (·.control) (step (State.reset.withFetchWord 32 0x10000000)) = some (.pollBlank, false)
      ∧ got (·.control) (step (State.reset.withFetchWord 32 0x20000000)) = some (.pollDraw, false)
      ∧ got (·.control) (step (State.reset.withFetchWord 32 0x30000000)) = some (.pollBlank, true)
      ∧ got (·.control) (step (State.reset.withFetchWord 32 0x40000000)) = some (.readKey, false)
      ∧ got (·.rsp) (step (State.reset.withFetchWord 32 0x50400040)) = some (some 1#16) := by decide

/-! ### Witnesses: for each obligation with hypotheses, a state and operands that meet them all

A state of `st` has the default configuration, so it is live by evaluation. -/

theorem default_accepted : configRefusal Config.default = none := by decide

/-- Ready states with a word on offer and the block to move. -/
def offered (w : Word) (ms : List Move) : State := st .idle false .blankPhase 100#16 0x03BF#16 [w] (.block :: ms)

theorem ready_offered (w : Word) (ms : List Move) : (offered w ms).ready :=
  ⟨⟨default_accepted, rfl⟩, rfl⟩

theorem test_witness_legalWordHasOneCommand : decode 0x52AA0155#32 = .ok (.ispressed 0x2AA#10 0x155#10) := by decide

theorem test_witness_wordSelects : decode 0x53FF0001#32 = .ok (.ispressed 0x3FF#10 0x001#10) := by decide

/-- Lines of each form, a number at its bound and a name twice among them; and one that is ill formed. -/
theorem test_witness_assembledLines :
    (∀ l ∈ [AsmLine.blank, .waitblank, .waitdraw, .sync, .readkeys, .tick, .vsync2, .held .l,
        .ispressed (.num 1023) (.names [.up, .down, .up])], l.wellFormed = true)
      ∧ (AsmLine.ispressed (.num 1024) (.names [.a])).wellFormed = false := by decide

/-- `0b10` and `KEY_A|KEY_R`: the operands are the number, and the OR of `0x001` and `0x100` (R28, R86). -/
theorem test_assembled_operands :
    assemble 0#10 (.ispressed (.num 2) (.names [.a, .r])) = some [0x50020101#32] := by decide

theorem test_witness_buttonConstants : buttonBit .up = buttonBit .up := rfl

theorem test_witness_stepRuns :
    (offered 0x30000000#32 []).ready ∧ (offered 0x30000000#32 []).cmds = [0x30000000#32]
      ∧ (offered 0x30000000#32 []).schedule = [.block] ∧ decode 0x30000000#32 = .ok .sync :=
  ⟨ready_offered _ _, rfl, rfl, by decide⟩

theorem test_witness_fetchedWord : configRefusal State.reset.cfg = none ∧ decode 0x40000000#32 = .ok .readkeys := by decide

/-- `AcceptStepFollowsTheRule`, its first part: one word for each of the six cases, `ISPRESSED` with both answers. -/
theorem test_witness_accept (w : Word) (_ : w ∈ [0x10000000#32, 0x20000000#32, 0x30000000#32, 0x40000000#32, 0x50010001#32,
      0x50010002#32, 0x10000001#32]) :
    (offered w []).ready ∧ (offered w []).cmds = [w] ∧ (offered w []).schedule = [.block] :=
  ⟨ready_offered _ _, rfl, rfl⟩

/-- Its second part: a poll with a word waiting, and an offer meanwhile. -/
theorem test_witness_accept_busy (m : Move) (_ : m ∈ [.block, .ack, .offer 0x20000000#32]) :
    ∃ t, ({ asked .pollBlank false .drawPhase 5#16 0#16 [m] with cmds := [0x30000000#32] }).seq ≠ .idle
      ∧ step { asked .pollBlank false .drawPhase 5#16 0#16 [m] with cmds := [0x30000000#32] } = .next t := by
  rename_i h
  simp only [List.mem_cons, List.not_mem_nil, or_false] at h
  rcases h with rfl | rfl | rfl <;> exact ⟨_, by decide, rfl⟩

/-- A common bit, the top one, and none. -/
theorem test_witness_ispressed :
    ((∃ i, i < 10 ∧ (0x200#10 : Mask10).getLsbD i = true ∧ (0x3FF#10 : Mask10).getLsbD i = true) →
        (1#16 : Half) = 1#16)
      ∧ ((¬ ∃ i, i < 10 ∧ (0x200#10 : Mask10).getLsbD i = true ∧ (0x3FF#10 : Mask10).getLsbD i = true) →
          (1#16 : Half) = 0#16)
      ∧ ((∃ i, i < 10 ∧ (0x2AA#10 : Mask10).getLsbD i = true ∧ (0x155#10 : Mask10).getLsbD i = true) →
          (0#16 : Half) = 1#16)
      ∧ ((¬ ∃ i, i < 10 ∧ (0x2AA#10 : Mask10).getLsbD i = true ∧ (0x155#10 : Mask10).getLsbD i = true) →
          (0#16 : Half) = 0#16)
      ∧ (offered 0x520003FF#32 []).ready
      ∧ (0x520003FF#32 : Word)
          = 0x50000000#32 ||| (0x200#10 : Mask10).setWidth 32 <<< 16 ||| (0x3FF#10 : Mask10).setWidth 32 :=
  ⟨fun _ => rfl, fun h => absurd ⟨9, by decide⟩ h,
    fun h => by
      obtain ⟨i, hi, h1, h2⟩ := h
      have : ∀ i < 10, ¬((0x2AA#10 : Mask10).getLsbD i = true ∧ (0x155#10 : Mask10).getLsbD i = true) := by decide
      exact absurd ⟨h1, h2⟩ (this i hi),
    fun _ => rfl, ready_offered _ _, by decide⟩

theorem test_witness_illegalWord :
    (offered 0x58000000#32 []).ready ∧ (offered 0x58000000#32 []).cmds = [0x58000000#32]
      ∧ (offered 0x58000000#32 []).schedule = [.block] ∧ decode 0x58000000#32 = .error .z1NotZero :=
  ⟨ready_offered _ _, rfl, rfl, by decide⟩

/-- A state with a fault, and a move of each kind the statement speaks of. -/
def faulty (m : Move) : State := { st .idle false .drawPhase 0#16 0#16 [] [m] with fault := some (.illegalCommand 0#32) }

theorem test_witness_faultBars (m : Move)
    (_ : m ∈ [.block, .ack, .offer 0x30000000#32, .advance, .change 0x1234#16, .reset]) :
    configRefusal (faulty m).cfg = none ∧ (faulty m).fault = some (.illegalCommand 0#32) ∧ (faulty m).schedule = [m] :=
  ⟨default_accepted, rfl, rfl⟩

/-- `PollStepFollowsTheRule`: the samples next to the threshold, in each of the six cases. -/
theorem test_witness_poll (q : Seq) (c : Bool) (p : Phase) (v : Half)
    (_ : (q, c, p, v) ∈ [(.pollBlank, true, .drawPhase, 159#16), (.pollBlank, true, .drawPhase, 160#16),
      (.pollBlank, false, .blankPhase, 160#16), (.pollDraw, false, .blankPhase, 160#16),
      (.pollDraw, false, .blankPhase, 159#16), (.pollDraw, false, .drawPhase, (159#16 : Half))]) :
    (asked q c p v 0#16 [.ack]).live ∧ (q = .pollBlank ∨ q = .pollDraw)
      ∧ (asked q c p v 0#16 [.ack]).busReq = true ∧ (asked q c p v 0#16 [.ack]).schedule = [.ack] := by
  refine ⟨⟨default_accepted, rfl⟩, ?_, rfl, rfl⟩
  rename_i h
  simp only [List.mem_cons, Prod.mk.injEq, List.not_mem_nil, or_false] at h
  rcases h with h | h | h | h | h | h <;> simp [h.1]

/-- The clauses' own conditions at the threshold: 159 is below, 160 at it. -/
theorem test_witness_poll_sides :
    (159#16 : Half).toNat < Config.default.blankThreshold.toNat
      ∧ Config.default.blankThreshold.toNat ≤ (160#16 : Half).toNat := by decide

theorem test_witness_decodeKeys :
    Config.default.keyActiveLow = true ∧ ({ Config.default with keyActiveLow := false }).keyActiveLow = false := by decide

theorem test_witness_keyRead :
    (asked .readKey false .drawPhase 0#16 0xFFBF#16 [.ack]).live
      ∧ (asked .readKey false .drawPhase 0#16 0xFFBF#16 [.ack]).busReq = true
      ∧ ∀ i, (0x0040#16 : Half).getLsbD i = (decide (i < 10) && ((0xFFBF#16 : Half).getLsbD i ^^ true)) := by
  refine ⟨⟨default_accepted, rfl⟩, rfl, fun i => ?_⟩
  by_cases h : i < 16
  · have : ∀ i < 16, (0x0040#16 : Half).getLsbD i = (decide (i < 10) && ((0xFFBF#16 : Half).getLsbD i ^^ true)) := by
      decide
    exact this i h
  · rw [BitVec.getLsbD_of_ge _ _ (by omega), decide_eq_false (by omega)]
    rfl

/-- A display of four lines, the last two blanking: `N = 2`, `LINES = 4`. The witnesses about runs use it. -/
def small : Config := cfgWith 2#16 4

/-- A state with that display, the block idle and to move. -/
def smallIdle (v : Half) (w : Word) (ms : List Move) : State :=
  { st .idle false .blankPhase v 0x03BF#16 [w] (.block :: ms) with cfg := small }

theorem ready_smallIdle (v : Half) (w : Word) (ms : List Move) : (smallIdle v w ms).ready :=
  ⟨⟨(by decide : configRefusal small = none), rfl⟩, rfl⟩

/-- A blank wait from line 1: polls at 1 and at 2. -/
def toBlank : List (List Move) := [[.block], [.advance, .block, .change 0#16]]

/-- A draw wait from line 2: polls at 2, 3 and 0. -/
def toDraw : List (List Move) := [[.block], [.advance, .block], [.block, .advance, .offer 0x10000000#32]]

theorem quiet_toBlank : quietPlan toBlank := by unfold quietPlan; decide

theorem quiet_toDraw : quietPlan toDraw := by unfold quietPlan; decide

theorem test_witness_waitblankRuns :
    (smallIdle 1#16 0x10000000#32 (pollPlan toBlank)).ready ∧ quietPlan toBlank
      ∧ planSamples small 1#16 toBlank = [1#16] ++ [2#16]
      ∧ (∀ x ∈ [(1#16 : Half)], x.toNat < small.blankThreshold.toNat)
      ∧ small.blankThreshold.toNat ≤ (2#16 : Half).toNat :=
  ⟨ready_smallIdle _ _ _, quiet_toBlank, by decide, by simp [small, cfgWith], by decide⟩

theorem test_witness_waitdrawRuns :
    (smallIdle 2#16 0x20000000#32 (pollPlan toDraw)).ready ∧ quietPlan toDraw
      ∧ planSamples small 2#16 toDraw = [2#16, 3#16] ++ [0#16]
      ∧ (∀ x ∈ [(2#16 : Half), 3#16], small.blankThreshold.toNat ≤ x.toNat)
      ∧ (0#16 : Half).toNat < small.blankThreshold.toNat :=
  ⟨ready_smallIdle _ _ _, quiet_toDraw, by decide, by simp [small, cfgWith], by decide⟩

theorem test_witness_syncRuns :
    (smallIdle 1#16 0x30000000#32 (pollPlan (toBlank ++ toDraw))).ready ∧ quietPlan (toBlank ++ toDraw)
      ∧ planSamples small 1#16 (toBlank ++ toDraw) = ([1#16] ++ [2#16]) ++ ([2#16, 3#16] ++ [0#16])
      ∧ (∀ z ∈ [(1#16 : Half)], z.toNat < small.blankThreshold.toNat)
      ∧ (∀ z ∈ [(2#16 : Half), 3#16], small.blankThreshold.toNat ≤ z.toNat) :=
  ⟨ready_smallIdle _ _ _, by unfold quietPlan; decide, by decide, by simp [small, cfgWith], by simp [small, cfgWith]⟩

theorem test_witness_syncIsTheTwoWaits :
    (smallIdle 1#16 0x30000000#32 []).ready ∧ quietPlan toBlank ∧ quietPlan toDraw
      ∧ blankGuarantee small (planSamples small 1#16 toBlank)
      ∧ drawGuarantee small (planSamples small (countAfterAll small 1#16 toBlank.flatten) toDraw) :=
  ⟨ready_smallIdle _ _ _, quiet_toBlank, quiet_toDraw, ⟨[1#16], 2#16, by decide, by simp [small, cfgWith], by decide⟩,
    ⟨[2#16, 3#16], 0#16, by decide, by simp [small, cfgWith], by decide⟩⟩

/-- A next state whose `SEQ` has been evaluated to something else is not idle. -/
theorem notIdle {o : Host.Outcome State Fault Refusal} {u : State} (q : Seq) (h : got (·.seq) o = some q)
    (hq : q ≠ .idle) (e : o = .next u) : u.seq ≠ .idle := by
  subst e
  simp only [got, Option.some.injEq] at h
  exact h ▸ hq

/-- A request, its answer, a line of the display, a request and its answer, with a move of the block that waits. -/
def twoPolls : List Move := [.block, .ack, .advance, .block, .block, .ack]

/-- `CompletedWaitMeetsItsGuarantee`: a `WAITBLANK` of two polls, at 159 and 160; the block's second move waits. -/
theorem test_witness_completedWait_blank :
    ∃ s t : State, s.ready ∧ s.cmds = [0x10000000#32] ∧ s.schedule = (.block :: twoPolls) ++ []
      ∧ Move.reset ∉ twoPolls ∧ run 7 s = .next t ∧ t.seq = .idle
      ∧ ∀ j u, 1 ≤ j → j ≤ 6 → run j s = .next u → u.seq ≠ .idle := by
  refine ⟨st .idle false .drawPhase 159#16 0#16 [0x10000000#32] (.block :: twoPolls), _,
    ⟨⟨default_accepted, rfl⟩, rfl⟩, rfl, rfl, by decide, rfl, by decide, fun j u h1 h3 h => ?_⟩
  rcases (by omega : j = 1 ∨ j = 2 ∨ j = 3 ∨ j = 4 ∨ j = 5 ∨ j = 6) with rfl | rfl | rfl | rfl | rfl | rfl <;>
    exact notIdle .pollBlank (by decide) (by decide) h

/-- The same for a `WAITDRAW` that ends at its first poll. -/
theorem test_witness_completedWait_draw :
    ∃ s t : State, s.ready ∧ s.cmds = [0x20000000#32] ∧ s.schedule = (.block :: [.block, .ack]) ++ []
      ∧ Move.reset ∉ [Move.block, .ack] ∧ run 3 s = .next t ∧ t.seq = .idle
      ∧ ∀ j u, 1 ≤ j → j ≤ 2 → run j s = .next u → u.seq ≠ .idle := by
  refine ⟨st .idle false .blankPhase 0#16 0#16 [0x20000000#32] [.block, .block, .ack], _,
    ⟨⟨default_accepted, rfl⟩, rfl⟩, rfl, rfl, by decide, rfl, by decide, fun j u h1 h3 h => ?_⟩
  rcases (by omega : j = 1 ∨ j = 2) with rfl | rfl <;> exact notIdle .pollDraw (by decide) (by decide) h

/-- The same for a `SYNC` accepted on the last line. -/
theorem test_witness_completedWait_sync :
    ∃ s t : State, s.ready ∧ s.cmds = [0x30000000#32] ∧ s.schedule = (.block :: twoPolls) ++ []
      ∧ Move.reset ∉ twoPolls ∧ run 7 s = .next t ∧ t.seq = .idle
      ∧ ∀ j u, 1 ≤ j → j ≤ 6 → run j s = .next u → u.seq ≠ .idle := by
  refine ⟨st .idle false .drawPhase 227#16 0#16 [0x30000000#32] (.block :: twoPolls), _,
    ⟨⟨default_accepted, rfl⟩, rfl⟩, rfl, rfl, by decide, rfl, by decide, fun j u h1 h3 h => ?_⟩
  rcases (by omega : j = 1 ∨ j = 2 ∨ (j = 3 ∨ j = 4 ∨ j = 5 ∨ j = 6)) with rfl | rfl | rfl | rfl | rfl | rfl
  · exact notIdle .pollBlank (by decide) (by decide) h
  · exact notIdle .pollBlank (by decide) (by decide) h
  all_goals exact notIdle .pollDraw (by decide) (by decide) h

theorem test_witness_readkeysRuns :
    (offered 0x40000000#32 [.block, .change 0x033F#16, .ack]).ready
      ∧ (offered 0x40000000#32 [.block, .change 0x033F#16, .ack]).schedule
          = .block :: ([.block, .change 0x033F#16] ++ .ack :: [])
      ∧ quietRound [.block, .change 0x033F#16]
      ∧ (0x033F#16 : Half) = keysAfterAll 0x03BF#16 [.block, .change 0x033F#16] :=
  ⟨ready_offered _ _, rfl, by decide, by decide⟩

theorem test_witness_twoReadkeys :
    ∃ s : State, s.ready ∧ s.cmds = 0x40000000#32 :: 0x40000000#32 :: []
      ∧ s.schedule = .block :: ([.change 0x03BF#16, .block] ++ .ack :: .block :: ([.advance, .block] ++ .ack :: []))
      ∧ quietRound [.change 0x03BF#16, .block] ∧ quietRound [.advance, .block]
      ∧ ∀ v, Move.change v ∉ [.advance, .block] :=
  ⟨st .idle false .drawPhase 0#16 0#16 [0x40000000#32, 0x40000000#32]
      [.block, .change 0x03BF#16, .block, .ack, .block, .advance, .block, .ack],
    ⟨⟨default_accepted, rfl⟩, rfl⟩, rfl, rfl, by decide, by decide, fun v => by simp⟩

/-- Three polls, with a key change, an offer and waiting between them, and no line of the display. -/
def standstill : List (List Move) := [[.block], [.change 1#16, .block, .block], [.offer 0x30000000#32, .block]]

/-- P5 and X5: a display halted at line 10 in a blank wait, at line 160 in a draw wait. -/
theorem test_witness_haltedDisplay :
    (st .pollBlank false .drawPhase 10#16 0#16 [] (pollPlan standstill ++ [])).live
      ∧ quietPlan standstill ∧ (∀ ms ∈ standstill, Move.advance ∉ ms)
      ∧ (10#16 : Half).toNat < Config.default.blankThreshold.toNat
      ∧ (st .pollDraw false .blankPhase 160#16 0#16 [] (pollPlan standstill ++ [])).live
      ∧ Config.default.blankThreshold.toNat ≤ (160#16 : Half).toNat :=
  ⟨⟨default_accepted, rfl⟩, by unfold quietPlan; decide, by decide, by decide, ⟨default_accepted, rfl⟩, by decide⟩

/-- One step for each way the statement allows: a poll that goes on, reset, and the awaited sample, blank and draw. -/
theorem test_witness_onlyTheSample :
    got (·.seq) (step (asked .pollBlank false .drawPhase 159#16 0#16 [.ack])) = some .pollBlank
      ∧ got (·.seq) (step (st .pollBlank false .drawPhase 159#16 0#16 [] [.reset])) = some .idle
      ∧ got (·.seq) (step (asked .pollBlank false .drawPhase 160#16 0#16 [.ack])) = some .idle
      ∧ got (·.seq) (step (asked .pollDraw false .drawPhase 159#16 0#16 [.ack])) = some .idle := by decide

/-- Strides of exactly 2 after the first poll, both regions being two lines long, with other moves among the lines. -/
def strides : List (List Move) := [[.advance, .change 5#16, .advance, .block], [.block, .advance, .block, .advance]]

theorem test_witness_blankStride :
    ∃ s : State, s.live ∧ s.counterInv ∧ s.seq = .pollBlank ∧ quietPlan ([.advance, .block] :: strides)
      ∧ (∀ ms ∈ strides, advances ms ≤ s.cfg.lines - s.cfg.blankThreshold.toNat)
      ∧ s.cfg.blankThreshold.toNat ≤ advances strides.flatten
      ∧ s.schedule = pollPlan ([.advance, .block] :: strides) ++ [] :=
  ⟨{ st .pollBlank true .drawPhase 0#16 0#16 [] (pollPlan ([.advance, .block] :: strides)) with cfg := small },
    ⟨(by decide : configRefusal small = none), rfl⟩, by unfold State.counterInv; decide, rfl,
    by unfold quietPlan; decide, by decide, by decide, by simp [st]⟩

theorem test_witness_drawStride :
    ∃ s : State, s.live ∧ s.counterInv ∧ s.seq = .pollDraw ∧ quietPlan ([.advance, .block] :: strides)
      ∧ (∀ ms ∈ strides, advances ms ≤ s.cfg.blankThreshold.toNat)
      ∧ s.cfg.lines - s.cfg.blankThreshold.toNat ≤ advances strides.flatten
      ∧ s.schedule = pollPlan ([.advance, .block] :: strides) ++ [] :=
  ⟨{ st .pollDraw false .blankPhase 2#16 0#16 [] (pollPlan ([.advance, .block] :: strides)) with cfg := small },
    ⟨(by decide : configRefusal small = none), rfl⟩, by unfold State.counterInv; decide, rfl,
    by unfold quietPlan; decide, by decide, by decide, by simp [st]⟩

/-- A reachable state in the middle of a `SYNC`, which meets the four invariants. -/
def midSync : State :=
  { asked .pollDraw false .blankPhase 0#16 0#16 [.ack] with
    history := [.cmd 0x30000000#32, .read 0x04000006#32 160#16] }

/-- `EveryStepKeeps…`: the four invariants hold of it, and its step emits a tick. -/
theorem test_witness_invariants :
    midSync.controlInv ∧ midSync.counterInv ∧ ticksReported midSync.history = true ∧ midSync.responsesBalanced
      ∧ got (fun t => (t.tick, t.rsp)) (step midSync) = some (true, some 1#16) := by
  unfold State.controlInv State.counterInv State.responsesBalanced
  decide

/-- `AnIdleRunIsOverAtItsCommandCount`: two legal words, and the last of the moves answers the second. -/
def overMoves : List Move := [.block, .block, .advance, .block, .ack]

theorem test_witness_over :
    ∃ s t : State, s.seq = .idle ∧ s.fault = none ∧ s.history = [] ∧ s.schedule = overMoves ++ []
      ∧ Move.reset ∉ overMoves ∧ (∀ w, Move.offer w ∉ overMoves) ∧ run overMoves.length s = .next t
      ∧ (∀ w ∈ s.cmds, legalWord w = true) ∧ t.seq = .idle ∧ t.cmds = [] ∧ s.cmds.length = 2 :=
  ⟨st .idle false .drawPhase 7#16 0#16 [0x50010001#32, 0x40000000#32] overMoves, _, rfl, rfl, rfl, rfl, by decide,
    fun w => by simp [overMoves], rfl, by simp [st]; decide, rfl, rfl, rfl⟩

/-- The same, with an illegal word second: it is accepted and the block is idle, with one response. -/
theorem test_witness_not_over :
    ∃ s t : State, s.seq = .idle ∧ s.fault = none ∧ s.history = [] ∧ s.schedule = [.block, .block] ++ []
      ∧ Move.reset ∉ [Move.block, .block] ∧ (∀ w, Move.offer w ∉ [Move.block, .block]) ∧ run 2 s = .next t
      ∧ (∃ w ∈ s.cmds, legalWord w = false) ∧ t.seq = .idle ∧ t.cmds = [] :=
  ⟨st .idle false .drawPhase 7#16 0#16 [0x50010001#32, 0xFFFFFFFF#32] [.block, .block], _, rfl, rfl, rfl, rfl, by decide,
    fun w => by simp, rfl, ⟨0xFFFFFFFF#32, by simp [st], by decide⟩, rfl, rfl⟩

/-- `ControlMovesOnlyAlongTheTable`: a read, a word accepted, reset, the Display and a waiting block, from states that meet
the invariant. -/
theorem test_witness_controlMoves :
    (asked .pollBlank true .drawPhase 160#16 0#16 [.ack]).controlInv
      ∧ (asked .pollBlank true .drawPhase 160#16 0#16 [.ack]).answered
      ∧ got (·.control) (step (asked .pollBlank true .drawPhase 160#16 0#16 [.ack])) = some (.pollDraw, false)
      ∧ (offered 0x30000000#32 []).controlInv ∧ (offered 0x30000000#32 []).accepting
      ∧ got (·.control) (step (offered 0x30000000#32 [])) = some (.pollBlank, true)
      ∧ (nextMove (asked .pollBlank true .drawPhase 160#16 0#16 [.reset])).1 = .reset
      ∧ ¬ (asked .pollBlank true .drawPhase 160#16 0#16 [.block]).accepting
      ∧ ¬ (asked .pollBlank true .drawPhase 160#16 0#16 [.block]).answered
      ∧ got (·.control) (step (asked .pollBlank true .drawPhase 160#16 0#16 [.block])) = some (.pollBlank, true) := by
  unfold State.controlInv State.answered State.accepting
  decide

/-- `PhaseRecords…` and `TickOnly…`: a step for each value of the statement, at the threshold. -/
theorem test_witness_phase :
    got (·.phase) (step (asked .pollBlank false .drawPhase 160#16 0#16 [.ack])) = some .blankPhase
      ∧ got (·.phase) (step (asked .pollDraw false .blankPhase 159#16 0#16 [.ack])) = some .drawPhase
      ∧ got (·.phase) (step (asked .pollDraw false .blankPhase 160#16 0#16 [.ack])) = some .blankPhase
      ∧ got (·.phase) (step (st .idle false .blankPhase 0#16 0#16 [] [.reset])) = some .drawPhase := by decide

theorem test_witness_tick :
    got (·.tick) (step (asked .pollDraw false .blankPhase 159#16 0#16 [.ack])) = some true
      ∧ got (·.tick) (step (asked .pollDraw false .drawPhase 159#16 0#16 [.ack])) = some false := by decide

/-- `BusReads…`: a step in each state of the sequencer. -/
theorem test_witness_busReads :
    got (·.history) (step (st .idle false .drawPhase 7#16 9#16 [] [.block])) = some []
      ∧ got (·.history) (step (asked .pollBlank true .drawPhase 7#16 9#16 [.ack])) = some [.read 0x04000006#32 7#16]
      ∧ got (·.history) (step (asked .pollDraw false .drawPhase 160#16 9#16 [.ack]))
          = some [.read 0x04000006#32 160#16]
      ∧ got (·.history) (step (asked .readKey false .drawPhase 7#16 0x03FE#16 [.ack]))
          = some [.read 0x04000130#32 0x03FE#16, .rsp 1#16] := by decide

/-- `OnlyTheDevices…`: the Display, the Keypad and another agent. -/
theorem test_witness_devices :
    got (fun t => (t.vcount, t.keyraw)) (step (st .idle false .drawPhase 227#16 9#16 [] [.advance])) = some (0#16, 9#16)
      ∧ got (fun t => (t.vcount, t.keyraw)) (step (st .idle false .drawPhase 7#16 9#16 [] [.change 0xFFFF#16]))
          = some (7#16, 0xFFFF#16)
      ∧ got (fun t => (t.vcount, t.keyraw)) (step (st .idle false .drawPhase 7#16 9#16 [] [.offer 0#32]))
          = some (7#16, 9#16) := by decide

/-- `BusHalfwords…`: the default addresses; the byte at the lower address is the low one. -/
theorem test_witness_busHalf :
    configRefusal State.reset.cfg = none
      ∧ (st .idle false .drawPhase 0#16 0x03BF#16 [] []).busByte 0x04000130 = some 0xBF#8 := by decide

/-- `NoStepReadsThePast`: a step of each outcome. -/
theorem test_witness_past :
    (got (·.seq) (step midSync)).isSome = true
      ∧ step (faulty .block) = .fault (.illegalCommand 0#32)
      ∧ gotRefusal (step { State.reset with cfg := cfgWith 0#16 228 }) = some (.configRefused .thresholdOutOfRange) :=
  ⟨by decide, rfl, by decide⟩

/-- `BusRequestIsHeldUntilAnswered`: a request raised, held, answered, dropped by reset, and an acknowledge for none. -/
theorem test_witness_busRequest :
    (asked .readKey false .drawPhase 0#16 0#16 [.advance]).controlInv
      ∧ got (·.busReq) (step (st .readKey false .drawPhase 0#16 0#16 [] [.block])) = some true
      ∧ got (·.busReq) (step (st .readKey false .drawPhase 0#16 0#16 [] [.ack])) = some false
      ∧ got (fun t => (t.busReq, t.busAddr)) (step (asked .pollDraw false .drawPhase 0#16 0#16 [.advance]))
          = some (true, some 0x04000006#32)
      ∧ got (fun t => (t.busReq, t.busAddr)) (step (asked .readKey false .drawPhase 0#16 0#16 [.block]))
          = some (true, some 0x04000130#32)
      ∧ got (·.busReq) (step (asked .readKey false .drawPhase 0#16 0#16 [.ack])) = some false
      ∧ got (·.busReq) (step (asked .readKey false .drawPhase 0#16 0#16 [.reset])) = some false := by
  unfold State.controlInv
  decide

/-- `ResetTakes…`: from a fault, and from a command in progress. -/
theorem test_witness_reset :
    configRefusal (faulty .reset).cfg = none ∧ (faulty .reset).schedule = .reset :: []
      ∧ (nextMove (st .pollDraw false .blankPhase 0#16 0#16 [] [.reset])).1 = .reset
      ∧ got (·.cmdReady) (step (st .pollDraw false .blankPhase 0#16 0#16 [] [.reset])) = some true := by decide

/-- `RefusedExactly…` and `TheRefusalReasonIsTrue`: a refused step for each reason. -/
theorem test_witness_refused :
    gotRefusal (step { State.reset with cfg := { Config.default with timingAddr := 0x04000007#32 } })
        = some (.configRefused .timingMisaligned)
      ∧ gotRefusal (step { State.reset with cfg := { Config.default with keypadAddr := 0x04000131#32 } })
        = some (.configRefused .keypadMisaligned)
      ∧ gotRefusal (step { State.reset with cfg := { Config.default with timingAddr := 0x04000130#32 } })
        = some (.configRefused .sameAddress)
      ∧ gotRefusal (step { State.reset with cfg := cfgWith 1#16 1 }) = some (.configRefused .linesOutOfRange)
      ∧ gotRefusal (step { State.reset with cfg := cfgWith 228#16 228 }) = some (.configRefused .thresholdOutOfRange)
      ∧ gotRefusal (step { State.reset with cfg := { Config.default with keypadMapped := false } })
        = some (.configRefused .unmapped) := by decide

/-- `UnansweredBusLeavesTheBlockStuck`: every move but the two. -/
theorem test_witness_unanswered :
    (asked .readKey false .drawPhase 0#16 0#16 ([.block, .advance, .change 3#16, .offer 0#32] ++ [])).live
      ∧ (asked .readKey false .drawPhase 0#16 0#16 []).seq ≠ .idle
      ∧ (asked .readKey false .drawPhase 0#16 0#16 []).busReq = true
      ∧ Move.ack ∉ [Move.block, .advance, .change 3#16, .offer 0#32]
      ∧ Move.reset ∉ [Move.block, .advance, .change 3#16, .offer 0#32] :=
  ⟨⟨default_accepted, rfl⟩, by decide, rfl, by decide, by decide⟩

/-- The block, the bus and the Display in turn, for ever. -/
def inTurn (k : Nat) : Move := if k % 3 = 0 then .block else if k % 3 = 1 then .ack else .advance

/-- The draw wait from line 2 of the small display: polls at 2, 3 and 0, the moves 1, 4 and 7. -/
def inTurnStart : State := { st .pollDraw false .blankPhase 2#16 0#16 [] [] with cfg := small }

/-- From the eighth state on the block is idle, with nothing offered and no request. -/
theorem inTurn_idle (n : Nat) : ∃ u, along inTurn inTurnStart (8 + n) = .next u ∧ u.live ∧ u.seq = .idle ∧ u.cmds = []
    ∧ u.busReq = false := by
  induction n with
  | zero => exact ⟨_, rfl, ⟨by decide, rfl⟩, rfl, rfl, rfl⟩
  | succ n ih =>
    obtain ⟨u, h, hl, hs, hc, hb⟩ := ih
    rw [← Nat.add_assoc, along_succ h hl.1]
    rcases (by unfold inTurn; split_ifs <;> simp :
      inTurn (8 + n) = .block ∨ inTurn (8 + n) = .ack ∨ inTurn (8 + n) = .advance) with e | e | e
    · exact ⟨u.dropPulses, by rw [e]; exact runMove_of_effect (.idle hl.2 hs hc), hl, hs, hc, hb⟩
    · exact ⟨u.dropPulses, by rw [e]; exact runMove_of_effect (.noRead fun _ _ => hs), hl, hs, hc, hb⟩
    · exact ⟨advance u.dropPulses, by rw [e]; exact runMove_of_effect .advance, hl, hs, hc, hb⟩

/-- The three polls are all the reads there are. -/
theorem inTurn_reads {i : Nat} {u : State} (h : readsAt inTurn inTurnStart i u) :
    (i = 1 ∨ i = 4 ∨ i = 7) ∧ u.seq = .pollDraw := by
  obtain ⟨h1, h2, h3⟩ := h
  by_cases hi : i < 8
  · rcases (by omega : i = 0 ∨ i = 1 ∨ i = 2 ∨ i = 3 ∨ i = 4 ∨ i = 5 ∨ i = 6 ∨ i = 7) with
      rfl | rfl | rfl | rfl | rfl | rfl | rfl | rfl
    all_goals first
      | exact absurd h2 (by decide)
      | (cases h1; exact ⟨by decide, rfl⟩)
  · obtain ⟨v, e, -, -, -, hb⟩ := inTurn_idle (i - 8)
    rw [show 8 + (i - 8) = i by omega, h1] at e
    cases e
    exact absurd h3 (by simp [hb])

/-- `FairScheduleEndsTheCommand`: all four assumptions hold of it. -/
theorem test_witness_fair :
    inTurnStart.live ∧ inTurnStart.counterInv ∧ inTurnStart.seq ≠ .idle ∧ FairSchedule inTurn inTurnStart
      ∧ ∀ k, inTurn k ≠ .reset := by
  refine ⟨⟨by decide, rfl⟩, by unfold State.counterInv; decide, by decide, ⟨?_, ?_, ?_, ?_⟩, ?_⟩
  · intro k _ _ _
    exact ⟨3 * k + 1, by omega, by simp [inTurn]⟩
  · intro k
    exact ⟨3 * k + 2, by omega, by simp [inTurn]⟩
  · intro k
    exact ⟨3 * k, by omega, .inl (by simp [inTurn])⟩
  · intro i n u v hu hv _
    obtain ⟨hi, hq⟩ := inTurn_reads hu
    obtain ⟨hj, -⟩ := inTurn_reads hv
    refine ⟨by simp [hq], fun _ _ => ?_⟩
    rcases (by omega : (i = 1 ∧ n = 2) ∨ (i = 1 ∧ n = 5) ∨ (i = 4 ∧ n = 2)) with ⟨rfl, rfl⟩ | ⟨rfl, rfl⟩ | ⟨rfl, rfl⟩ <;>
      decide
  · intro k
    unfold inTurn
    split_ifs <;> simp

end Sys2Proof.Tests
end

section
/-! PROOFS. What each step leaves of the configuration, the schedule, the device registers and the client's words; how an
invariant is carried along a run of given moves; and the statements about the run as a whole: its end (R11), the writers
of the device registers (R9) and the refusal of a configuration (R6). -/

namespace Sys2Proof.Machine

/-! ### What one move leaves unchanged, and what it writes outside the block -/

/-- `Poll` leaves everything but the block's control, its outputs and the history (R103). -/
theorem poll_frame {s : State} (hs : s.seq = .pollBlank ∨ s.seq = .pollDraw) :
    (poll s).cfg = s.cfg ∧ (poll s).schedule = s.schedule ∧ (poll s).vcount = s.vcount ∧ (poll s).keyraw = s.keyraw
      ∧ (poll s).cmds = s.cmds ∧ (poll s).fault = s.fault := by
  rcases poll_cases s hs with ⟨e, _⟩ | ⟨e, _⟩ | ⟨e, _⟩ | ⟨e, _⟩ | ⟨e, _⟩ <;> rw [e] <;> simp

/-- `Accept` leaves the configuration, the schedule, the devices and the words behind the accepted one (R89). -/
theorem afterAccept_frame (w : Word) (s : State) :
    (afterAccept w s).cfg = s.cfg ∧ (afterAccept w s).schedule = s.schedule ∧ (afterAccept w s).vcount = s.vcount
      ∧ (afterAccept w s).keyraw = s.keyraw ∧ (afterAccept w s).cmds = s.cmds := by
  rcases afterAccept_cases w s with ⟨_, _, e, _⟩ | ⟨_, e, _⟩ | ⟨e, _⟩ <;> rw [e] <;> simp

/-- A move leaves the configuration and the rest of the schedule; the counter and the keypad register are as the move
says (R9, R147, R148, R162). -/
theorem Effect.frame {s t : State} {m : Move} (h : Effect s m t) :
    t.cfg = s.cfg ∧ t.schedule = s.schedule ∧ t.vcount = countAfter s.cfg s.vcount m
      ∧ t.keyraw = keysAfter s.keyraw m := by
  cases h with
  | idle | request | noRead | offer | advance | change | reset =>
    simp [Machine.advance, Machine.change, countAfter, keysAfter]
  | keyRead => simp [keyRead_eq, countAfter, keysAfter]
  | accept w rest =>
    obtain ⟨hcfg, hsched, hvcount, hkeyraw, -⟩ := afterAccept_frame w (s.setCmds rest)
    exact ⟨hcfg, hsched, hvcount, hkeyraw⟩
  | poll _ _ hs =>
    obtain ⟨hcfg, hsched, hvcount, hkeyraw, -⟩ := poll_frame hs
    exact ⟨hcfg, hsched, hvcount, hkeyraw⟩

/-- The same of a step: the moves that are left are those that `nextMove` left. -/
theorem step_frame {s t : State} (h : step s = .next t) :
    t.cfg = s.cfg ∧ t.schedule = (nextMove s).2.schedule ∧ t.vcount = countAfter s.cfg s.vcount (nextMove s).1
      ∧ t.keyraw = keysAfter s.keyraw (nextMove s).1 := by
  obtain ⟨ms, d, e⟩ := nextMove_eq s
  simpa [e] using (step_next h).2.frame

/-- The counter is moved by `Advance` alone (R147). -/
theorem countAfter_eq_ite (c : Config) (v : Half) (m : Move) :
    countAfter c v m = if m = .advance then nextCount c v else v := by
  cases m <;> rfl

/-- The keypad register is written by `Change` alone (R148). -/
theorem keysAfter_of_ne_change {m : Move} (v : Half) (h : ∀ v', m ≠ .change v') : keysAfter v m = v := by
  cases m with
  | change v' => exact absurd rfl (h v')
  | _ => rfl

/-- The bytes of the bus are those of the two registers, at the configured addresses (R52). -/
theorem State.busByte_congr {s t : State} (hc : t.cfg = s.cfg) (hv : t.vcount = s.vcount) (hk : t.keyraw = s.keyraw)
    (a : Nat) : t.busByte a = s.busByte a := by
  simp only [State.busByte, hc, hv, hk]

/-! ### Runs of given moves -/

/-- The first step of a run that ends in a state. -/
theorem run_succ_next {k : Nat} {s t : State} (h : run (k + 1) s = .next t) :
    ∃ u, step s = .next u ∧ run k u = .next t := by
  cases hs : step s with
  | next u => exact ⟨u, rfl, by rwa [run_succ hs] at h⟩
  | fault f => simp [run, hs] at h
  | refused r => simp [run, hs] at h

/-- What every step with an admitted move keeps, a run of admitted moves keeps. -/
theorem run_keeps {P : State → Prop} {admitted : Move → Prop}
    (hstep : ∀ s t : State, admitted (nextMove s).1 → P s → step s = .next t → P t) (tail : List Move) :
    ∀ (ms : List Move) (s t : State), s.schedule = ms ++ tail → (∀ m ∈ ms, admitted m) → P s →
      run ms.length s = .next t → P t := by
  intro ms
  induction ms with
  | nil => intro s t _ _ hP h; cases h; exact hP
  | cons m ms ih =>
    intro s t hs hadm hP h
    obtain ⟨u, hu, hrun⟩ := run_succ_next h
    have hm : nextMove s = (m, s.setSchedule (ms ++ tail)) := by simp [nextMove, hs]
    obtain ⟨-, hsched, -⟩ := step_frame hu
    refine ih u t (by simpa [hm] using hsched) (fun m' h' => hadm m' (List.mem_cons_of_mem _ h')) ?_ hrun
    exact hstep s u (by rw [hm]; exact hadm m List.mem_cons_self) hP hu

/-! ### The commands begun, and the end of a run (R11, R88) -/

/-- How many commands the block has begun: those it has responded to, and the one in progress (R88). -/
def State.begun (s : State) : Nat :=
  s.history.countP Event.isRsp + (if s.seq = .idle then 0 else 1)

/-- An accepted word is a command more that is begun, or the fault (R89). -/
theorem afterAccept_begun (w : Word) {s : State} (hs : s.seq = .idle) :
    (legalWord w = true ∧ (afterAccept w s).fault = s.fault ∧ (afterAccept w s).begun = s.begun + 1)
      ∨ (legalWord w = false ∧ (afterAccept w s).fault ≠ none) := by
  rcases afterAccept_cases w s with ⟨q, c, e, hq, hl⟩ | ⟨v, e, hl⟩ | ⟨e, hl⟩
  · have hq' : q ≠ .idle := by rcases hq with rfl | ⟨rfl, _⟩ | ⟨rfl, _⟩ <;> simp
    exact .inl ⟨hl, by simp [e], by simp [e, State.begun, hs, hq', Event.isRsp]⟩
  · exact .inl ⟨hl, by simp [e], by simp [e, State.begun, hs, Event.isRsp]⟩
  · exact .inr ⟨hl, by simp [e]⟩

/-- `Poll` begins no command: one still in progress, or its response (R103). -/
theorem poll_begun {s : State} (hs : s.seq = .pollBlank ∨ s.seq = .pollDraw) : (poll s).begun = s.begun := by
  have hq : s.seq ≠ .idle := by rcases hs with hs | hs <;> simp [hs]
  rcases poll_cases s hs with ⟨e, _⟩ | ⟨e, _⟩ | ⟨e, _⟩ | ⟨e, _⟩ | ⟨e, _⟩ <;> rw [e] <;>
    simp [State.begun, hq, Event.isRsp]

/-- `KeyRead` ends the command in progress with its response (R120). -/
theorem keyRead_begun {s : State} (hs : s.seq = .readKey) : (keyRead s).begun = s.begun := by
  simp [keyRead_eq, State.begun, hs, Event.isRsp]

/-- A move of a closed run, which is neither reset nor offered more words. -/
def closedMove (m : Move) : Prop := m ≠ .reset ∧ ∀ w, m ≠ .offer w

/-- Such a move accepts the word on offer, or leaves the words, the fault and the commands begun as they are. -/
theorem Effect.begun_cases {s t : State} {m : Move} (h : Effect s m t) (hm : closedMove m) :
    (t.cmds = s.cmds ∧ t.fault = s.fault ∧ t.begun = s.begun)
      ∨ ∃ w, s.cmds = w :: t.cmds ∧ s.fault = none
        ∧ ((legalWord w = true ∧ t.fault = none ∧ t.begun = s.begun + 1) ∨ (legalWord w = false ∧ t.fault ≠ none)) := by
  cases h with
  | idle | request | noRead | advance | change => exact .inl ⟨rfl, rfl, rfl⟩
  | accept w rest hf hs hc =>
    obtain ⟨-, -, -, -, hcmds⟩ := afterAccept_frame w (s.setCmds rest)
    refine .inr ⟨w, by simp [hc, hcmds], hf, ?_⟩
    rcases afterAccept_begun w (s := s.setCmds rest) hs with ⟨hl, hf', hb⟩ | ⟨hl, hf'⟩
    · exact .inl ⟨hl, hf'.trans hf, hb⟩
    · exact .inr ⟨hl, hf'⟩
  | poll _ _ hs =>
    obtain ⟨-, -, -, -, hcmds, hfault⟩ := poll_frame hs
    exact .inl ⟨hcmds, hfault, poll_begun hs⟩
  | keyRead _ _ hs => exact .inl ⟨by simp [keyRead_eq], by simp [keyRead_eq], keyRead_begun hs⟩
  | offer w => exact absurd rfl (hm.2 w)
  | reset => exact absurd rfl hm.1

/-- The same of a step. -/
theorem step_begun_cases {s t : State} (h : step s = .next t) (hm : closedMove (nextMove s).1) :
    (t.cmds = s.cmds ∧ t.fault = s.fault ∧ t.begun = s.begun)
      ∨ ∃ w, s.cmds = w :: t.cmds ∧ s.fault = none
        ∧ ((legalWord w = true ∧ t.fault = none ∧ t.begun = s.begun + 1) ∨ (legalWord w = false ∧ t.fault ≠ none)) := by
  obtain ⟨ms, d, e⟩ := nextMove_eq s
  have he := (step_next h).2
  rw [e] at he
  exact he.begun_cases hm

/-- The invariant of a run over the words `ws`: the words accepted so far are a front part of them; without a fault
they are legal and as many as the commands begun, with one there is an illegal word among them (R88, R24). -/
def State.ledger (ws : List Word) (t : State) : Prop :=
  ∃ taken, ws = taken ++ t.cmds
    ∧ ((t.fault = none ∧ (∀ w ∈ taken, legalWord w = true) ∧ taken.length = t.begun)
      ∨ (t.fault ≠ none ∧ ∃ w ∈ taken, legalWord w = false))

/-- Before the first step no word is accepted. -/
theorem State.ledger_start {s : State} (hs : s.seq = .idle) (hf : s.fault = none) (hh : s.history = []) :
    s.ledger s.cmds :=
  ⟨[], rfl, .inl ⟨hf, by simp, by simp [State.begun, hs, hh]⟩⟩

/-- Every step of a closed run keeps the ledger. -/
theorem step_ledger {ws : List Word} {s t : State} (hm : closedMove (nextMove s).1) (hl : s.ledger ws)
    (h : step s = .next t) : t.ledger ws := by
  obtain ⟨taken, hws, hacc⟩ := hl
  rcases step_begun_cases h hm with ⟨hcmds, hfault, hbegun⟩ | ⟨w, hcmds, hnone, hword⟩
  · exact ⟨taken, by rw [hcmds, hws], by rwa [hfault, hbegun]⟩
  · refine ⟨taken ++ [w], by simp [hws, hcmds], ?_⟩
    rcases hacc with ⟨-, hlegal, hlen⟩ | ⟨hfault, -⟩
    · refine hword.imp (fun ⟨hw, hf, hb⟩ => ⟨hf, ?_, ?_⟩) fun ⟨hw, hf⟩ => ⟨hf, w, by simp, hw⟩
      · simpa [or_imp, forall_and] using ⟨hlegal, hw⟩
      · simp [hlen, hb]
    · exact absurd hnone hfault

/-- With the ledger in order, a run is over exactly when the block is idle, no fault stands and no word is left. -/
theorem State.ledger.over_iff {ws : List Word} {t : State} (hl : t.ledger ws) :
    t.over ws.length ↔ t.seq = .idle ∧ t.fault = none ∧ t.cmds = [] := by
  obtain ⟨taken, hws, ⟨hf, -, hlen⟩ | ⟨hf, -⟩⟩ := hl
  · have hcount : t.seq = .idle → taken.length = t.history.countP Event.isRsp := fun hs => by
      simp [hlen, State.begun, hs]
    refine and_congr_right fun hs => and_congr_right fun _ => ?_
    rw [hws, List.length_append, hcount hs, ← List.length_eq_zero_iff]
    omega
  · simp [State.over, hf]

/-- Settles O35: the ledger is kept along the run, and at its end says what is begun. -/
theorem anIdleRunIsOverAtItsCommandCount : Obligations.AnIdleRunIsOverAtItsCommandCount := by
  intro s t ms tail hs hf hh hsched hreset hoffer hrun
  have hl : t.ledger s.cmds := by
    refine run_keeps (fun _ _ => step_ledger) tail ms s t hsched (fun m hm => ⟨?_, ?_⟩) (State.ledger_start hs hf hh) hrun
    · rintro rfl; exact hreset hm
    · rintro w rfl; exact hoffer w hm
  rw [hl.over_iff]
  obtain ⟨taken, hws, ⟨hfault, hlegal, -⟩ | ⟨hfault, w, hw, hill⟩⟩ := hl
  · refine ⟨fun _ => by simp [hfault], ?_⟩
    rintro ⟨w, hw, hill⟩ ⟨-, -, hcmds⟩
    have := hlegal w (by simpa [hws, hcmds] using hw)
    simp [hill] at this
  · refine ⟨fun hall => ?_, fun _ h => hfault h.2.1⟩
    have := hall w (by simp [hws, hw])
    simp [hill] at this

/-! ### The writers of the device registers (R9) -/

/-- Settles O41: the frame of a step, read register by register. -/
theorem onlyTheDevicesWriteTheirRegisters : Obligations.OnlyTheDevicesWriteTheirRegisters := by
  intro s t h
  have hvalid := (step_next h).1
  obtain ⟨hcfg, -, hvcount, hkeyraw⟩ := step_frame h
  rw [countAfter_eq_ite] at hvcount
  refine ⟨hcfg, ?_, fun v hm => by rw [hkeyraw, hm]; rfl, fun hm => by rw [hkeyraw, keysAfter_of_ne_change _ hm],
    fun ha hm => State.busByte_congr hcfg (by rw [hvcount, if_neg ha]) (by rw [hkeyraw, keysAfter_of_ne_change _ hm])⟩
  rw [hvcount, apply_ite BitVec.toNat, nextCount_toNat hvalid]

/-! ### The refusal of a configuration (R6, R66) -/

/-- A configuration is accepted exactly when it meets every condition of R6 and R66. -/
theorem configRefusal_eq_none_iff (c : Config) :
    configRefusal c = none ↔
      c.timingAddr.getLsbD 0 = false ∧ c.keypadAddr.getLsbD 0 = false ∧ c.timingAddr ≠ c.keypadAddr
        ∧ 2 ≤ c.lines ∧ c.lines ≤ 65536
        ∧ 1 ≤ c.blankThreshold.toNat ∧ c.blankThreshold.toNat ≤ c.lines - 1
        ∧ c.timingMapped = true ∧ c.keypadMapped = true := by
  simp only [configRefusal, ite_eq_iff, reduceCtorEq, and_false, false_or, and_true, not_or, not_lt, Bool.not_eq_true,
    Bool.not_eq_false, ne_eq, and_assoc]

/-- A step is refused exactly for the reason found in the configuration: no move is refused. -/
theorem step_eq_refused_iff (s : State) (q : Refusal) :
    step s = .refused q ↔ ∃ r, configRefusal s.cfg = some r ∧ q = .configRefused r := by
  unfold step
  cases configRefusal s.cfg with
  | none => simp [runMove_not_refused]
  | some r => simp [eq_comm]

/-- Settles O47: a step is refused for the configuration's refusal and for nothing else. -/
theorem refusedExactlyWhenTheConfigurationIsInvalid : Obligations.RefusedExactlyWhenTheConfigurationIsInvalid := by
  intro s
  refine ⟨?_, fun q h => ?_⟩
  · rw [← configRefusal_eq_none_iff, ← ne_eq, Option.ne_none_iff_exists']
    simp [step_eq_refused_iff]
  · obtain ⟨r, -, hq⟩ := (step_eq_refused_iff s q).1 h
    exact ⟨r, hq⟩

end Sys2Proof.Machine
end

section
/-! PROOFS. The elements of the state (10_state.md): the agreement of the sequencer, the fault and the outputs, the range
of the counter, and where both start; what reset and a fault do to each element; what no step reads, `PHASE` (R23) and the
past (R31); and the button positions of R27, with what `ISPRESSED` answers of them. -/

namespace Sys2Proof.Machine

/-! ### The state a step's move starts from -/

/-- A step is one move's effect on the state with that move taken and the pulses gone (R32), as named updates. -/
theorem step_effect {s t : State} (h : step s = .next t) :
    ∃ ms d, Effect (((s.setSchedule ms).setDrawn d).dropPulses) (nextMove s).1 t := by
  obtain ⟨ms, d, e⟩ := nextMove_eq s
  exact ⟨ms, d, e ▸ (step_next h).2⟩

/-- Only the barred block and the barred client answer the fault (R24, log entry 5). -/
theorem runMove_eq_fault_iff (m : Move) (s : State) (f : Fault) :
    runMove m s = .fault f ↔ s.fault = some f ∧ (m = .block ∨ ∃ w, m = .offer w) := by
  cases m with
  | block =>
    cases hf : s.fault with
    | some g => simp [runMove, blockStep, hf]
    | none =>
      simp only [runMove, blockStep, hf]
      cases s.seq with
      | idle => cases s.cmds <;> simp [accept_eq]
      | pollBlank | pollDraw | readKey => simp
  | offer w => cases hf : s.fault <;> simp [runMove, offerStep, hf]
  | ack | advance | change | reset => simp [runMove]

/-- A step answers the fault that stands when it picks the block or the client, in a valid configuration (R10, R24). -/
theorem step_eq_fault_iff (s : State) (f : Fault) :
    step s = .fault f ↔
      configRefusal s.cfg = none ∧ s.fault = some f ∧ ((nextMove s).1 = .block ∨ ∃ w, (nextMove s).1 = .offer w) := by
  obtain ⟨ms, d, e⟩ := nextMove_eq s
  unfold step
  cases configRefusal s.cfg with
  | none => simp [runMove_eq_fault_iff, e]
  | some r => simp

/-! ### The agreement of the sequencer, the fault and the outputs -/

/-- `CHAIN`, `FAULT` and `bus_req` right for the sequencer, pulses down: the agreement as a step's move starts from it. -/
theorem State.controlInv.dropPulses {s : State} (h : s.controlInv) (ms : List Move) (d : Nat) :
    (((s.setSchedule ms).setDrawn d).dropPulses).controlInv := by
  obtain ⟨hchain, hfault, hreq, -⟩ := h
  exact ⟨hchain, hfault, hreq, by simp⟩

/-- In an idle block the agreement leaves `CHAIN` and `bus_req` no choice (R22, R64). -/
theorem State.controlInv.of_idle {s : State} (h : s.controlInv) (hs : s.seq = .idle) :
    s.chain = false ∧ s.busReq = false := by
  obtain ⟨hchain, -, hreq, -⟩ := h
  exact ⟨by simpa [hs] using hchain, by simpa [hs] using hreq⟩

/-- `Accept` keeps the agreement: only `SYNC` sets `CHAIN`, and it enters `POLL_BLANK` (R89, R102). -/
theorem afterAccept_controlInv (w : Word) {s : State} (hf : s.fault = none) (hs : s.seq = .idle) (ht : s.tick = false)
    (h : s.controlInv) : (afterAccept w s).controlInv := by
  obtain ⟨hchain, hreq⟩ := h.of_idle hs
  rcases afterAccept_cases w s with ⟨q, c, e, hq, -⟩ | ⟨v, e, -⟩ | ⟨e, -⟩ <;> rw [e]
  · rcases hq with rfl | ⟨rfl, rfl⟩ | ⟨rfl, rfl⟩ <;> simp [State.controlInv, hf, hreq, ht]
  · simp [State.controlInv, hs, hf, hchain, hreq, ht]
  · simp [State.controlInv, hs, hchain, hreq, ht]

/-- `Poll` keeps the agreement: the request drops, `CHAIN` falls where `POLL_BLANK` is left, and the tick comes with its
response (R103, R105). -/
theorem poll_controlInv {s : State} (hf : s.fault = none) (hs : s.seq = .pollBlank ∨ s.seq = .pollDraw)
    (ht : s.tick = false) (h : s.controlInv) : (poll s).controlInv := by
  obtain ⟨hchain, -, -, -⟩ := h
  rcases poll_cases s hs with ⟨e, -⟩ | ⟨e, -⟩ | ⟨e, -⟩ | ⟨e, -⟩ | ⟨e, -⟩ <;> rw [e]
  · exact ⟨hchain, by simp [hf], by simp, by simp [ht]⟩
  all_goals simp [State.controlInv, hf, ht]

/-- A move that starts with the pulses down keeps the agreement. -/
theorem Effect.controlInv {s t : State} {m : Move} (he : Effect s m t) (ht : s.tick = false) (h : s.controlInv) :
    t.controlInv := by
  cases he with
  | idle | noRead | offer | advance | change => exact h
  | accept w rest hf hs => exact afterAccept_controlInv w hf hs ht h
  | request hf hs =>
    obtain ⟨hchain, hfault, -, htick⟩ := h
    exact ⟨hchain, hfault, fun _ => hs, htick⟩
  | poll hf _ hs => exact poll_controlInv hf hs ht h
  | keyRead hf => simp [State.controlInv, keyRead_eq, hf, ht]
  | reset => simp [State.controlInv]

/-- Settles O31: each of the ten effects keeps the agreement. -/
theorem everyStepKeepsTheControlInvariant : Obligations.EveryStepKeepsTheControlInvariant := by
  intro s t h hstep
  obtain ⟨ms, d, he⟩ := step_effect hstep
  exact he.controlInv rfl (h.dropPulses ms d)

/-! ### The range of the counter (R26) -/

/-- `Advance` counts modulo `LINES`, from whatever value (R147). -/
theorem nextCount_lt_lines {c : Config} (h : configRefusal c = none) (v : Half) : (nextCount c v).toNat < c.lines := by
  obtain ⟨hlines, -⟩ := valid_bounds h
  rw [nextCount_toNat h]
  exact Nat.mod_lt _ (by omega)

/-- Settles O32: the counter is left alone or advanced modulo `LINES`. -/
theorem everyStepKeepsTheCounterInRange : Obligations.EveryStepKeepsTheCounterInRange := by
  intro s t h hstep
  obtain ⟨hcfg, -, hvcount, -⟩ := step_frame hstep
  rw [State.counterInv, hcfg, hvcount, countAfter_eq_ite]
  split
  · exact nextCount_lt_lines (step_next hstep).1 _
  · exact h

/-! ### Power-on and reset (R33, R160 to R162) -/

/-- Settles O36: the reset values, in an empty history; the counter starts at 0 (log entry 3). -/
theorem theInvariantsHoldAtReset : Obligations.TheInvariantsHoldAtReset := by
  refine ⟨?control, ?counter, rfl, ?responses⟩
  case control => simp [State.controlInv, State.reset]
  case counter => simp [State.counterInv, State.reset, Config.default]
  case responses => simp [State.responsesBalanced, State.reset, sinceReset]

/-- Settles O46: the fields and wires of the state after power-on, read off its definition. -/
theorem powerOnStateIsTheResetState : Obligations.PowerOnStateIsTheResetState :=
  ⟨rfl, rfl, rfl, rfl, rfl, rfl, rfl, rfl, rfl, rfl, rfl, rfl, rfl⟩

/-- The outputs are at their reset levels after a reset from any state (R33, R161). -/
theorem resetBlock_outputs (s : State) :
    (resetBlock s).cmdReady = true ∧ (resetBlock s).busy = false ∧ (resetBlock s).phaseOut = 0#1
      ∧ (resetBlock s).rspValid = false ∧ (resetBlock s).tick = false ∧ (resetBlock s).busReq = false
      ∧ (resetBlock s).busAddr = none ∧ (resetBlock s).faultBit = false :=
  ⟨rfl, rfl, rfl, rfl, rfl, rfl, rfl, rfl⟩

/-- A step that picks reset is the reset of the block. -/
theorem step_of_reset {s t : State} (hm : (nextMove s).1 = .reset) (h : step s = .next t) : ∃ u, t = resetBlock u := by
  obtain ⟨ms, d, he⟩ := step_effect h
  rw [hm] at he
  cases he
  exact ⟨_, rfl⟩

/-- Settles O45: the step is `resetBlock`, whose fields and outputs are the reset values. -/
theorem resetTakesEveryElementToItsResetValue : Obligations.ResetTakesEveryElementToItsResetValue := by
  refine ⟨fun s ms hc hs => ?_, fun s t hm h => ?_, rfl, rfl, rfl, rfl, rfl, rfl, rfl⟩
  · rw [step_scheduled hc hs]
    rfl
  · obtain ⟨u, rfl⟩ := step_of_reset hm h
    exact resetBlock_outputs u

/-! ### A fault bars the block and the client until reset (R24, R145) -/

/-- With `FAULT = 1` an acknowledge starts no step (R24). -/
theorem ackStep_of_fault {s : State} {f : Fault} (hf : s.fault = some f) : ackStep s = s := by
  simp [ackStep, hf]

/-- Settles O15: move by move. -/
theorem faultBarsBlockAndClientUntilReset : Obligations.FaultBarsBlockAndClientUntilReset := by
  intro s f m ms hc hf hs
  have hstep := step_scheduled hc hs
  refine ⟨fun hbarred => ?barred, ?goesOn, ?reset⟩
  case barred => exact hstep.trans ((runMove_eq_fault_iff ..).2 ⟨hf, hbarred⟩)
  case goesOn =>
    rintro (rfl | ⟨v, rfl⟩ | rfl)
    · exact ⟨_, hstep, hf, rfl, rfl, rfl, rfl⟩
    · exact ⟨_, hstep, hf, rfl, rfl, rfl, rfl⟩
    · have hack : ackStep (s.setSchedule ms).dropPulses = (s.setSchedule ms).dropPulses := ackStep_of_fault hf
      exact ⟨_, hstep.trans (congrArg Host.Outcome.next hack), hf, rfl, rfl, rfl, rfl⟩
  case reset => rintro rfl; exact ⟨_, hstep, rfl, rfl⟩

/-! ### `PHASE` (R23): who writes it -/

/-- `Accept` leaves `PHASE` alone (R89). -/
theorem afterAccept_phase (w : Word) (s : State) : (afterAccept w s).phase = s.phase := by
  rcases afterAccept_cases w s with ⟨_, _, e, _⟩ | ⟨_, e, _⟩ | ⟨e, _⟩ <;> simp [e]

/-- `Poll` writes `PHASE` where it completes a wait, the blank half of `SYNC` included (R103). -/
theorem poll_phase {s : State} (hs : s.seq = .pollBlank ∨ s.seq = .pollDraw) :
    (poll s).phase =
      if s.seq = .pollBlank ∧ s.cfg.blankThreshold.toNat ≤ s.vcount.toNat then .blankPhase
      else if s.seq = .pollDraw ∧ s.vcount.toNat < s.cfg.blankThreshold.toNat then .drawPhase
      else s.phase := by
  rcases poll_cases s hs with ⟨e, ⟨hq, hv⟩ | ⟨hq, hv⟩⟩ | ⟨e, hq, hv, -⟩ | ⟨e, hq, hv, -⟩ | ⟨e, hq, hv, -⟩ |
    ⟨e, hq, hv, -⟩ <;> simp [e, hq, hv]

/-- `PHASE` after a move (R23): reset and the polls that complete a wait write it. -/
theorem Effect.phase {s t : State} {m : Move} (he : Effect s m t) :
    t.phase =
      if m = .reset then .drawPhase
      else if (m = .ack ∧ s.busReq = true ∧ s.fault = none) ∧ s.seq = .pollBlank
          ∧ s.cfg.blankThreshold.toNat ≤ s.vcount.toNat then .blankPhase
      else if (m = .ack ∧ s.busReq = true ∧ s.fault = none) ∧ s.seq = .pollDraw
          ∧ s.vcount.toNat < s.cfg.blankThreshold.toNat then .drawPhase
      else s.phase := by
  cases he with
  | idle | request | offer | advance | change | reset => simp [Machine.advance, Machine.change]
  | accept w rest => simp [afterAccept_phase]
  | poll hf hb hs => simp [poll_phase hs, hf, hb]
  | keyRead _ _ hs => simp [keyRead_eq, hs]
  | noRead hn =>
    have hq : (s.busReq = true ∧ s.fault = none) → s.seq = .idle := fun h => hn h.1 h.2
    rw [if_neg (by simp), if_neg, if_neg] <;> rintro ⟨⟨-, h⟩, hseq, -⟩ <;> simp [hq h] at hseq

/-- The output `phase` is the encoding of `PHASE` (R23, R32). -/
theorem State.phaseOut_eq_one_iff (s : State) : s.phaseOut = 1#1 ↔ s.phase = .blankPhase := by
  rw [State.phaseOut]
  cases s.phase <;> decide

/-! ### `PHASE` decides nothing but the tick (R23) -/

/-- Two states that agree on what `PHASE` may not decide: the control, the counter, the words, the fault, the reads, and
whether there is a response. -/
def State.alikeButPhase (u t : State) : Prop :=
  u.control = t.control ∧ u.vcount = t.vcount ∧ u.cmds = t.cmds ∧ u.fault = t.fault ∧ (u.rsp = none ↔ t.rsp = none)
    ∧ u.history.filter Event.isRead = t.history.filter Event.isRead

theorem State.alikeButPhase_setPhase (p : Phase) (t : State) : (t.setPhase p).alikeButPhase t :=
  ⟨rfl, rfl, rfl, rfl, Iff.rfl, rfl⟩

/-- `Accept` does not read `PHASE` (R89). -/
theorem afterAccept_setPhase (w : Word) (p : Phase) (s : State) :
    afterAccept w (s.setPhase p) = (afterAccept w s).setPhase p := by
  unfold afterAccept
  cases decode w with
  | ok i => cases i <;> rfl
  | error _ => rfl

/-- `Poll` reads `PHASE` for the tick alone, and for the value of the response that goes with it (R103, R105). -/
theorem poll_setPhase_alike (p : Phase) {s : State} (hs : s.seq = .pollBlank ∨ s.seq = .pollDraw) :
    (poll (s.setPhase p)).alikeButPhase (poll s) := by
  rcases hs with hs | hs
  · rw [poll_blank s hs, poll_blank (s.setPhase p) hs]
    cases hb : blanking s.cfg s.vcount <;> cases hc : s.chain <;>
      simp [State.alikeButPhase, State.control, BusTarget.addr, BusTarget.value, hb, hc]
  · have hne : s.seq ≠ .pollBlank := by simp [hs]
    rw [poll_draw s hne, poll_draw (s.setPhase p) hne]
    cases hd : drawable s.cfg s.vcount <;> cases hp : s.phase <;> cases p <;>
      simp [State.alikeButPhase, State.control, List.filter_cons, Event.isRead, BusTarget.addr, BusTarget.value, hd]

/-- With another `PHASE` the same move has an effect alike. -/
theorem Effect.setPhase {s t : State} {m : Move} (he : Effect s m t) (p : Phase) :
    ∃ u, Effect (s.setPhase p) m u ∧ u.alikeButPhase t := by
  cases he with
  | idle hf hs hc => exact ⟨_, .idle hf hs hc, State.alikeButPhase_setPhase p _⟩
  | accept w rest hf hs hc =>
    refine ⟨_, .accept w rest hf hs hc, ?_⟩
    exact afterAccept_setPhase w p (s.setCmds rest) ▸ State.alikeButPhase_setPhase p _
  | request hf hs => exact ⟨_, .request hf hs, State.alikeButPhase_setPhase p _⟩
  | poll hf hb hs => exact ⟨_, .poll hf hb hs, poll_setPhase_alike p hs⟩
  | keyRead hf hb hs => exact ⟨_, .keyRead hf hb hs, State.alikeButPhase_setPhase p (Machine.keyRead s)⟩
  | noRead h => exact ⟨_, .noRead h, State.alikeButPhase_setPhase p _⟩
  | offer w hf => exact ⟨_, .offer w hf, State.alikeButPhase_setPhase p (s.setCmds (s.cmds ++ [w]))⟩
  | advance => exact ⟨_, .advance, State.alikeButPhase_setPhase p (Machine.advance s)⟩
  | change v => exact ⟨_, .change v, State.alikeButPhase_setPhase p _⟩
  | reset => exact ⟨_, .reset, State.alikeButPhase_setPhase .drawPhase (resetBlock s)⟩

/-- The next move is chosen without `PHASE`. -/
theorem nextMove_setPhase (p : Phase) (s : State) :
    nextMove (s.setPhase p) = ((nextMove s).1, (nextMove s).2.setPhase p) := by
  unfold nextMove
  rw [State.setPhase_schedule]
  cases s.schedule <;> rfl

/-- With another `PHASE` the same step leads to a state alike. -/
theorem step_setPhase {s t : State} (h : step s = .next t) (p : Phase) :
    ∃ u, step (s.setPhase p) = .next u ∧ u.alikeButPhase t := by
  obtain ⟨hvalid, he⟩ := step_next h
  obtain ⟨u, hu, halike⟩ := he.setPhase p
  exact ⟨u, step_of_effect hvalid (by rw [nextMove_setPhase]; exact hu), halike⟩

/-- Settles O38: the writers of `PHASE`, move by move, and the step alike from any other `PHASE`. -/
theorem phaseRecordsTheWaitThatLastCompleted : Obligations.PhaseRecordsTheWaitThatLastCompleted := by
  intro s t h
  obtain ⟨ms, d, he⟩ := step_effect h
  exact ⟨he.phase, step_setPhase h, t.phaseOut_eq_one_iff⟩

/-! ### No step reads the past (R31, R20, R32) -/

/-- The state with another history. -/
def State.setHistory (h : List Event) (s : State) : State := { s with history := h }

@[simp] theorem State.setHistory_cfg (h : List Event) (s : State) : (s.setHistory h).cfg = s.cfg := rfl
@[simp] theorem State.setHistory_chain (h : List Event) (s : State) : (s.setHistory h).chain = s.chain := rfl
@[simp] theorem State.setHistory_phase (h : List Event) (s : State) : (s.setHistory h).phase = s.phase := rfl
@[simp] theorem State.setHistory_vcount (h : List Event) (s : State) : (s.setHistory h).vcount = s.vcount := rfl
@[simp] theorem State.setHistory_keyraw (h : List Event) (s : State) : (s.setHistory h).keyraw = s.keyraw := rfl

/-! An update of another field passes the history by, and one that records an event appends it. -/

@[simp] theorem State.setSeq_setHistory (q : Seq) (h : List Event) (s : State) :
    (s.setHistory h).setSeq q = (s.setSeq q).setHistory h := rfl
@[simp] theorem State.setChain_setHistory (b : Bool) (h : List Event) (s : State) :
    (s.setHistory h).setChain b = (s.setChain b).setHistory h := rfl
@[simp] theorem State.setPhase_setHistory (p : Phase) (h : List Event) (s : State) :
    (s.setHistory h).setPhase p = (s.setPhase p).setHistory h := rfl
@[simp] theorem State.log_setHistory (e : Event) (h : List Event) (s : State) :
    (s.setHistory h).log e = (s.log e).setHistory (h ++ [e]) := rfl
@[simp] theorem State.afterRead_setHistory (t : BusTarget) (h : List Event) (s : State) :
    (s.setHistory h).afterRead t = (s.afterRead t).setHistory (h ++ [.read (t.addr s.cfg) (t.value s)]) := rfl
@[simp] theorem respond_setHistory (v : Half) (h : List Event) (s : State) :
    respond v (s.setHistory h) = (respond v s).setHistory (h ++ [.rsp v]) := rfl
@[simp] theorem emitTick_setHistory (h : List Event) (s : State) :
    emitTick (s.setHistory h) = (emitTick s).setHistory (h ++ [.tick]) := rfl
@[simp] theorem complete_setHistory (h : List Event) (s : State) :
    complete (s.setHistory h) = (complete s).setHistory h := rfl
@[simp] theorem raiseIllegalCommand_setHistory (w : Word) (h : List Event) (s : State) :
    raiseIllegalCommand w (s.setHistory h)
      = (raiseIllegalCommand w s).setHistory (h ++ [.fault (.illegalCommand w)]) := rfl

/-- At `s` the operation `f` reads no history: it appends the same events to any, and leaves the rest as it does there. -/
def AppendsAt (f : State → State) (s : State) : Prop :=
  ∃ es, (f s).history = s.history ++ es ∧ ∀ h, f (s.setHistory h) = (f s).setHistory (h ++ es)

/-- `Accept` appends `Cmd(w)` and its response or fault to whatever history there is (R89). -/
theorem afterAccept_appendsAt (w : Word) (s : State) : AppendsAt (afterAccept w) s := by
  unfold AppendsAt afterAccept
  cases decode w with
  | error _ => exact ⟨[.cmd w, .fault (.illegalCommand w)], by simp, by simp⟩
  | ok i =>
    cases i with
    | waitblank | waitdraw | sync | readkeys => exact ⟨[.cmd w], rfl, fun _ => rfl⟩
    | ispressed mask button =>
      exact ⟨[.cmd w, .rsp (zextBool (anyHeld mask button))], by simp [accepted], by simp [accepted]⟩

/-- The event of a read of the register `t` (R31). -/
def BusTarget.readEvent (t : BusTarget) (s : State) : Event := .read (t.addr s.cfg) (t.value s)

/-- `Poll` appends its read, and its tick and response where it completes (R103). -/
theorem poll_appendsAt {s : State} (hs : s.seq = .pollBlank ∨ s.seq = .pollDraw) : AppendsAt poll s := by
  rcases hs with hs | hs
  · have hpoll := fun h => poll_blank (s.setHistory h) hs
    unfold AppendsAt
    rw [poll_blank s hs]
    cases hb : blanking s.cfg s.vcount with
    | false => exact ⟨[BusTarget.timing.readEvent s], rfl, by simp [hpoll, hb, BusTarget.readEvent]⟩
    | true =>
      cases hc : s.chain with
      | true => exact ⟨[BusTarget.timing.readEvent s], rfl, by simp [hpoll, hb, hc, BusTarget.readEvent]⟩
      | false =>
        exact ⟨[BusTarget.timing.readEvent s, .rsp 0#16], by simp [BusTarget.readEvent],
          by simp [hpoll, hb, hc, BusTarget.readEvent]⟩
  · have hne : s.seq ≠ .pollBlank := by simp [hs]
    have hpoll := fun h => poll_draw (s.setHistory h) hne
    unfold AppendsAt
    rw [poll_draw s hne]
    cases hd : drawable s.cfg s.vcount with
    | false => exact ⟨[BusTarget.timing.readEvent s], rfl, by simp [hpoll, hd, BusTarget.readEvent]⟩
    | true =>
      cases hp : s.phase with
      | blankPhase =>
        exact ⟨[BusTarget.timing.readEvent s, .tick, .rsp 1#16], by simp [BusTarget.readEvent],
          by simp [hpoll, hd, hp, BusTarget.readEvent]⟩
      | drawPhase =>
        exact ⟨[BusTarget.timing.readEvent s, .rsp 0#16], by simp [BusTarget.readEvent],
          by simp [hpoll, hd, hp, BusTarget.readEvent]⟩

/-- `KeyRead` appends its read and its response (R120). -/
theorem keyRead_appendsAt (s : State) : AppendsAt keyRead s :=
  ⟨[BusTarget.keypad.readEvent s, .rsp (decodeKeys s.cfg s.keyraw)], by simp [keyRead_eq, BusTarget.readEvent],
    by simp [keyRead_eq, BusTarget.readEvent]⟩

/-- A move that leaves the history alone appends no event. -/
theorem Effect.appends_nothing {s t : State} {m : Move} (hh : t.history = s.history)
    (he : ∀ h, Effect (s.setHistory h) m (t.setHistory h)) :
    ∃ es, t.history = s.history ++ es ∧ ∀ h, Effect (s.setHistory h) m (t.setHistory (h ++ es)) :=
  ⟨[], by simpa using hh, by simpa using he⟩

/-- A move appends the same events to any other history, and leaves the rest as it does with this one. -/
theorem Effect.appends {s t : State} {m : Move} (he : Effect s m t) :
    ∃ es, t.history = s.history ++ es ∧ ∀ h, Effect (s.setHistory h) m (t.setHistory (h ++ es)) := by
  cases he with
  | idle hf hs hc => exact appends_nothing rfl fun _ => .idle hf hs hc
  | accept w rest hf hs hc =>
    obtain ⟨es, hes, happ⟩ := afterAccept_appendsAt w (s.setCmds rest)
    exact ⟨es, hes, fun h => happ h ▸ .accept w rest hf hs hc⟩
  | request hf hs => exact appends_nothing rfl fun _ => .request hf hs
  | poll hf hb hs =>
    obtain ⟨es, hes, happ⟩ := poll_appendsAt hs
    exact ⟨es, hes, fun h => happ h ▸ .poll hf hb hs⟩
  | keyRead hf hb hs =>
    obtain ⟨es, hes, happ⟩ := keyRead_appendsAt s
    exact ⟨es, hes, fun h => happ h ▸ .keyRead hf hb hs⟩
  | noRead hn => exact appends_nothing rfl fun _ => .noRead hn
  | offer w hf => exact appends_nothing rfl fun _ => .offer w hf
  | advance => exact appends_nothing rfl fun _ => .advance
  | change v => exact appends_nothing rfl fun _ => .change v
  | reset => exact ⟨[.reset], rfl, fun _ => .reset⟩

/-- The next move is chosen without the past; what it starts from differs in the history alone, the pulses being dropped
(R32). -/
theorem nextMove_withPast (h : List Event) (r : Option Half) (b : Bool) (s : State) :
    (nextMove (s.withPast h r b)).1 = (nextMove s).1
      ∧ (nextMove (s.withPast h r b)).2.dropPulses = (nextMove s).2.dropPulses.setHistory h := by
  unfold nextMove
  rw [show (s.withPast h r b).schedule = s.schedule from rfl]
  cases s.schedule <;> exact ⟨rfl, rfl⟩

/-- Settles O43: a next state by the move's effect, a fault and a refusal by what each of them depends on. -/
theorem noStepReadsThePast : Obligations.NoStepReadsThePast := by
  intro s h r b
  obtain ⟨hmove, hstart⟩ := nextMove_withPast h r b s
  refine ⟨fun t ht => ?next, fun f hf => ?fault, fun q hq => ?refused⟩
  case next =>
    obtain ⟨hvalid, he⟩ := step_next ht
    obtain ⟨es, hes, happ⟩ := he.appends
    obtain ⟨-, -, -, -, -, -, -, -, -, hhist⟩ := nextMove_frame s
    refine ⟨es, by rw [hes, State.dropPulses_history, hhist], step_of_effect hvalid ?_⟩
    rw [hmove, hstart]
    exact happ h
  case fault => rw [step_eq_fault_iff, hmove]; exact (step_eq_fault_iff s f).1 hf
  case refused => exact (step_eq_refused_iff _ q).2 ((step_eq_refused_iff s q).1 hq)

/-! ### The buttons (R27, R28) and `ISPRESSED` of a read mask (R121, R122) -/

/-- The ten positions are those of the InputMask (R27, R28). -/
theorem buttonBit_lt (key : Button) : buttonBit key < 10 := by
  cases key <;> decide

/-- The buttons in the order of R27. -/
def allButtons : List Button := [.a, .b, .select, .start, .right, .left, .up, .down, .r, .l]

/-- A button stands at its own position. -/
theorem allButtons_buttonBit (key : Button) : allButtons[buttonBit key]? = some key := by
  cases key <;> rfl

/-- So its position tells which button it is. -/
theorem buttonBit_injective : Function.Injective buttonBit := by
  intro key other h
  rw [← Option.some_inj, ← allButtons_buttonBit key, h, allButtons_buttonBit]

/-- The one bit of a button's constant is at its position (R28). -/
theorem buttonMask_getLsbD (key : Button) (i : Nat) : (buttonMask key).getLsbD i = decide (i = buttonBit key) := by
  have := buttonBit_lt key
  rw [buttonMask, BitVec.getLsbD_shiftLeft, BitVec.getLsbD_one, Bool.eq_iff_iff]
  simp only [Bool.and_eq_true, decide_eq_true_eq, Bool.not_eq_true', decide_eq_false_iff_not]
  omega

/-- Settles O8: the constants by evaluation, their bits from the shift. -/
theorem buttonConstantsHaveOneBitEach : Obligations.ButtonConstantsHaveOneBitEach :=
  ⟨by decide, rfl, buttonMask_getLsbD, fun _ _ h => buttonBit_injective h⟩

/-- `ISPRESSED` of a button's constant tests the one bit (R121). -/
theorem anyHeld_buttonMask (mask : Mask10) (key : Button) :
    anyHeld mask (buttonMask key) = mask.getLsbD (buttonBit key) := by
  rw [Bool.eq_iff_iff, anyHeld_iff]
  simp [buttonMask_getLsbD, buttonBit_lt]

/-- `Decode` bit by bit (R122): the ten named bits, inverted when the register is active low, and zero above them. -/
theorem decodeKeys_getLsbD (c : Config) (r : Half) (i : Nat) :
    (decodeKeys c r).getLsbD i = (decide (i < 10) && (r.getLsbD i ^^ c.keyActiveLow)) := by
  have hmask : (0x03FF#16 : Half) = (BitVec.allOnes 10).setWidth 16 := by decide
  rw [decodeKeys, hmask, BitVec.getLsbD_and, BitVec.getLsbD_setWidth, BitVec.getLsbD_allOnes]
  by_cases hi : i < 10
  · have hi' : i < 16 := by omega
    cases c.keyActiveLow <;> simp [hi, hi']
  · simp [hi]

/-- Settles O26: the button's bit of the mask is its raw bit in the polarity of the device. -/
theorem pressedButtonIsAnsweredAsHeld : Obligations.PressedButtonIsAnsweredAsHeld := by
  intro c r key s
  have hbit : anyHeld ((decodeKeys c r).setWidth 10) (buttonMask key)
      = (r.getLsbD (buttonBit key) ^^ c.keyActiveLow) := by
    simp [anyHeld_buttonMask, decodeKeys_getLsbD, buttonBit_lt]
  have hrsp : zextBool (r.getLsbD (buttonBit key) ^^ c.keyActiveLow)
      = if r.getLsbD (buttonBit key) = c.keyActiveLow then 0#16 else 1#16 := by
    cases r.getLsbD (buttonBit key) <;> cases c.keyActiveLow <;> rfl
  rw [exec_eq, accepted, hbit, hrsp]
  rfl

end Sys2Proof.Machine
end

section
/-! PROOFS. The bus (20_memory.md): the bytes of its two registers (R52), the reads each step makes (R50), the handshake of
a read (R64), and a bus that never answers (R65). -/

namespace Sys2Proof.Machine

/-! ### The bytes of the two registers (R52) -/

/-- A halfword is its high byte before its low byte. -/
theorem halfword_of_bytes (v : Half) : v.extractLsb' 8 8 ++ v.extractLsb' 0 8 = v :=
  BitVec.extractLsb'_append_extractLsb'_eq_extractLsb' (by decide) |>.trans (BitVec.extractLsb'_eq_self)

/-- A halfword's address is even, so the next byte address is no halfword's (R6). -/
theorem toNat_add_one_ne_of_even {a b : Addr} (ha : a.getLsbD 0 = false) (hb : b.getLsbD 0 = false) :
    a.toNat + 1 ≠ b.toNat := by
  simp only [BitVec.getLsbD, Nat.testBit_zero, decide_eq_false_iff_not] at ha hb
  omega

/-- The two bytes of the display-timing register. -/
theorem State.busByte_timing (s : State) :
    s.busByte s.cfg.timingAddr.toNat = some (s.vcount.extractLsb' 0 8)
      ∧ s.busByte (s.cfg.timingAddr.toNat + 1) = some (s.vcount.extractLsb' 8 8) := by
  simp [State.busByte]

/-- The two bytes of the keypad register, which are none of the other's in a valid configuration. -/
theorem State.busByte_keypad {s : State} (h : configRefusal s.cfg = none) :
    s.busByte s.cfg.keypadAddr.toNat = some (s.keyraw.extractLsb' 0 8)
      ∧ s.busByte (s.cfg.keypadAddr.toNat + 1) = some (s.keyraw.extractLsb' 8 8) := by
  obtain ⟨htiming, hkeypad, hne, -⟩ := (configRefusal_eq_none_iff s.cfg).1 h
  have hne' : s.cfg.keypadAddr.toNat ≠ s.cfg.timingAddr.toNat := fun e => hne (BitVec.eq_of_toNat_eq e.symm)
  have hlow := toNat_add_one_ne_of_even htiming hkeypad
  have hhigh := toNat_add_one_ne_of_even hkeypad htiming
  simp [State.busByte, hne', hlow.symm, hhigh]

/-- Two bytes that are a halfword's make it up. -/
theorem State.busHalf_of_bytes {s : State} {a : Nat} {v : Half} (hlow : s.busByte a = some (v.extractLsb' 0 8))
    (hhigh : s.busByte (a + 1) = some (v.extractLsb' 8 8)) : s.busHalf a = some v := by
  simp [State.busHalf, hlow, hhigh, halfword_of_bytes]

/-- Settles O42: no byte of one register stands at an address of the other, and each register is its two bytes. -/
theorem busHalfwordsAreLittleEndian : Obligations.BusHalfwordsAreLittleEndian := by
  intro s h
  obtain ⟨htlow, hthigh⟩ := s.busByte_timing
  obtain ⟨hklow, hkhigh⟩ := State.busByte_keypad h
  refine ⟨State.busHalf_of_bytes htlow hthigh, State.busHalf_of_bytes hklow hkhigh, ?_, ?_⟩
  · rw [htlow, BitVec.setWidth_eq_extractLsb' (by decide)]
  · rw [hklow, BitVec.setWidth_eq_extractLsb' (by decide)]

/-! ### The reads of a step (R50) -/

/-- The reads a step from `s` makes: when the bus answers, one of the register the sequencer's state reads. -/
def State.readsMade (s : State) : List Event :=
  if s.answered then (s.seq.target.map (BusTarget.readEvent · s)).toList else []

/-- No other step reads. -/
theorem State.readsMade_of_not_answered {s : State} (h : s.answered → s.seq = .idle) : s.readsMade = [] := by
  unfold State.readsMade
  split
  · rename_i ha; simp [h ha, Seq.target]
  · rfl

/-- `Poll` reads the display-timing register (R103). -/
theorem State.readsMade_poll {s : State} (ha : s.answered) (hs : s.seq = .pollBlank ∨ s.seq = .pollDraw) :
    s.readsMade = [.read s.cfg.timingAddr s.vcount] := by
  rcases hs with hs | hs <;> simp only [State.readsMade, if_pos ha, hs] <;> rfl

/-- `KeyRead` reads the keypad register (R120). -/
theorem State.readsMade_keyRead {s : State} (ha : s.answered) (hs : s.seq = .readKey) :
    s.readsMade = [.read s.cfg.keypadAddr s.keyraw] := by
  simp only [State.readsMade, if_pos ha, hs]; rfl

/-- The block that accepts a word makes no read in that step (R89). -/
theorem State.accepting.readsMade {s : State} (h : s.accepting) : s.readsMade = [] :=
  State.readsMade_of_not_answered fun _ => h.2.1

/-- Of the events a step appends, the reads are those. -/
theorem Appends.filter_isRead {s t : State} {es : List Event} (h : Appends s t es) :
    es.filter Event.isRead = s.readsMade := by
  cases h with
  | nothing ha => rw [State.readsMade_of_not_answered ha]; rfl
  | entered w _ ha | pressed w _ _ ha | illegal w _ ha => rw [State.accepting.readsMade ha]; rfl
  | polled ha hs | ended ha hs => rw [State.readsMade_poll ha (hs.imp_right And.left)]; rfl
  | ticked ha hs => rw [State.readsMade_poll ha (.inr hs)]; rfl
  | keys v ha hs => rw [State.readsMade_keyRead ha hs]; rfl
  | reset hm => rw [State.readsMade_of_not_answered fun ha => by simp [ha.1] at hm]; rfl

/-- A step of the block, and an acknowledge, writes neither register (R50). -/
theorem step_registers_of_block_or_ack {s t : State} (h : step s = .next t)
    (hm : (nextMove s).1 = .block ∨ (nextMove s).1 = .ack) :
    t.cfg = s.cfg ∧ t.vcount = s.vcount ∧ t.keyraw = s.keyraw := by
  obtain ⟨hcfg, -, hvcount, hkeyraw⟩ := step_frame h
  rcases hm with hm | hm <;> rw [hm] at hvcount hkeyraw <;> exact ⟨hcfg, hvcount, hkeyraw⟩

/-- Settles O40: the reads among the events a step appends, and the frame of a step of the block. -/
theorem busReadsAreOfTheTwoRegisters : Obligations.BusReadsAreOfTheTwoRegisters := by
  refine ⟨fun s t h => ?_, rfl, rfl⟩
  obtain ⟨es, hes, happ⟩ := step_appends h
  refine ⟨es, hes, ?reads, fun hm => ?kept⟩
  case reads =>
    rw [happ.filter_isRead]
    by_cases ha : s.answered
    · rw [if_neg (not_not_intro ha)]
      cases hs : s.seq with
      | idle => exact State.readsMade_of_not_answered fun _ => hs
      | pollBlank => exact State.readsMade_poll ha (.inl hs)
      | pollDraw => exact State.readsMade_poll ha (.inr hs)
      | readKey => exact State.readsMade_keyRead ha hs
    · rw [if_pos ha, State.readsMade_of_not_answered fun h => absurd h ha]
  case kept =>
    obtain ⟨hcfg, hvcount, hkeyraw⟩ := step_registers_of_block_or_ack h hm
    exact ⟨hvcount, hkeyraw, State.busByte_congr hcfg hvcount hkeyraw⟩

/-! ### The handshake of a read (R64) -/

/-- Under the agreement a request that stands is the request of a block in progress without a fault (R64, R144). -/
theorem State.controlInv.of_busReq {s : State} (h : s.controlInv) (hb : s.busReq = true) :
    s.seq ≠ .idle ∧ s.fault = none := by
  obtain ⟨-, hfault, hreq, -⟩ := h
  exact ⟨hreq hb, by_contra fun hf => hreq hb (hfault hf)⟩

/-- `Accept` leaves `bus_req` alone (R89). -/
theorem afterAccept_busReq (w : Word) (s : State) : (afterAccept w s).busReq = s.busReq := by
  rcases afterAccept_cases w s with ⟨_, _, e, _⟩ | ⟨_, e, _⟩ | ⟨e, _⟩ <;> simp [e]

/-- `Poll` drops `bus_req`, whatever it finds (R64, R103). -/
theorem poll_busReq {s : State} (hs : s.seq = .pollBlank ∨ s.seq = .pollDraw) : (poll s).busReq = false := by
  rcases poll_cases s hs with ⟨e, _⟩ | ⟨e, _⟩ | ⟨e, _⟩ | ⟨e, _⟩ | ⟨e, _⟩ <;> simp [e]

/-- The level of `bus_req` after a move: down with an acknowledge and with reset, raised by the block in a state that
reads, held otherwise (R64). -/
theorem Effect.busReq {s t : State} {m : Move} (he : Effect s m t) (h : s.controlInv) :
    t.busReq = true ↔ (m ≠ .ack ∧ m ≠ .reset) ∧ (s.busReq = true ∨ m = .block ∧ s.seq ≠ .idle) := by
  cases he with
  | idle _ hs => simp [hs]
  | accept w rest _ hs =>
    have hb : (afterAccept w (s.setCmds rest)).busReq = s.busReq := afterAccept_busReq w _
    simp [hb, hs]
  | request _ hs => simp [hs]
  | poll _ _ hs => simp [poll_busReq hs]
  | keyRead => simp [keyRead_eq]
  | noRead hn =>
    have hb : s.busReq ≠ true := fun hb => (h.of_busReq hb).1 (hn hb (h.of_busReq hb).2)
    simp [hb]
  | offer | advance | change | reset => simp [Machine.advance, Machine.change]

/-- A command in progress stays in its state until the bus answers it or it is reset (R64). -/
theorem Effect.seq_of_in_progress {s t : State} {m : Move} (he : Effect s m t) (hs : s.seq ≠ .idle) (hack : m ≠ .ack)
    (hreset : m ≠ .reset) : t.seq = s.seq := by
  cases he with
  | idle | request | offer | advance | change => rfl
  | accept _ _ _ hidle => exact absurd hidle hs
  | poll | keyRead | noRead => exact absurd rfl hack
  | reset => exact absurd rfl hreset

/-- An acknowledge for which no request stands changes nothing (R161). -/
theorem Effect.eq_of_ack_without_request {s t : State} (he : Effect s .ack t) (hb : s.busReq = false) : t = s := by
  cases he with
  | poll _ hreq | keyRead _ hreq => simp [hb] at hreq
  | noRead => rfl

/-- While a request stands, the address on the bus is that of the register the sequencer's state reads (R51, R64). -/
theorem State.busAddr_of_busReq {s : State} (hb : s.busReq = true) :
    s.busAddr = s.seq.target.map (BusTarget.addr s.cfg) :=
  if_pos hb

/-- A read is made by the acknowledge of a request that stands, and by nothing else: one (R64). -/
theorem State.controlInv.readsMade_length {s : State} (h : s.controlInv) :
    s.readsMade.length = if s.busReq = true ∧ (nextMove s).1 = .ack then 1 else 0 := by
  split
  · rename_i hread
    obtain ⟨hb, hm⟩ := hread
    obtain ⟨hs, hf⟩ := h.of_busReq hb
    rw [State.readsMade, if_pos ⟨hm, hb, hf⟩]
    cases hq : s.seq with
    | idle => exact absurd hq hs
    | pollBlank | pollDraw | readKey => rfl
  · rename_i hread
    rw [State.readsMade_of_not_answered fun ha => absurd ⟨ha.2.1, ha.1⟩ hread]
    rfl

/-- The `Read` events of the history after a step. -/
theorem step_countP_isRead {s t : State} (h : step s = .next t) :
    t.history.countP Event.isRead = s.history.countP Event.isRead + s.readsMade.length := by
  obtain ⟨es, hes, happ⟩ := step_appends h
  rw [hes, List.countP_append, List.countP_eq_length_filter (l := es), happ.filter_isRead]

/-- The level of `bus_req` after a step. -/
theorem step_busReq {s t : State} (hinv : s.controlInv) (h : step s = .next t) :
    t.busReq = true ↔
      ((nextMove s).1 ≠ .ack ∧ (nextMove s).1 ≠ .reset)
        ∧ (s.busReq = true ∨ (nextMove s).1 = .block ∧ s.seq ≠ .idle) := by
  obtain ⟨ms, d, he⟩ := step_effect h
  exact he.busReq (hinv.dropPulses ms d)

/-- A request that is held keeps its address (R64). -/
theorem step_busAddr_of_held {s t : State} (hinv : s.controlInv) (h : step s = .next t) (hb : s.busReq = true)
    (hb' : t.busReq = true) : t.busAddr = s.busAddr := by
  obtain ⟨⟨hack, hreset⟩, -⟩ := (step_busReq hinv h).1 hb'
  obtain ⟨ms, d, he⟩ := step_effect h
  obtain ⟨hcfg, -⟩ := step_frame h
  have hseq : t.seq = s.seq := he.seq_of_in_progress (hinv.of_busReq hb).1 hack hreset
  rw [State.busAddr_of_busReq hb, State.busAddr_of_busReq hb', hseq, hcfg]

/-- Settles O44: the level after a step gives its rise, hold and fall; the control invariant after it the address. -/
theorem busRequestIsHeldUntilAnswered : Obligations.BusRequestIsHeldUntilAnswered := by
  intro s t hinv h
  have hlevel := step_busReq hinv h
  refine ⟨fun hb hack hreset => ?held, fun hb hm => ?falls, fun hb => ?rises, fun hb => ?address, ?reads,
    fun hm hb => ?ignored⟩
  case held =>
    have hb' : t.busReq = true := hlevel.2 ⟨⟨hack, hreset⟩, .inl hb⟩
    exact ⟨hb', step_busAddr_of_held hinv h hb hb'⟩
  case falls =>
    refine Bool.eq_false_iff.2 fun hb' => ?_
    obtain ⟨⟨hack, hreset⟩, -⟩ := hlevel.1 hb'
    exact hm.elim hack hreset
  case rises =>
    rw [hlevel, hb]
    refine ⟨fun ⟨_, hrise⟩ => hrise.resolve_left (by simp), fun hrise => ⟨?_, .inr hrise⟩⟩
    simp [hrise.1]
  case address =>
    rw [State.busAddr_of_busReq hb]
    refine ⟨fun hs => by rw [hs]; rfl, ?_, ((everyStepKeepsTheControlInvariant s t hinv h).of_busReq hb).1⟩
    rintro (hs | hs) <;> rw [hs] <;> rfl
  case reads => rw [step_countP_isRead h, hinv.readsMade_length]
  case ignored =>
    have he := (step_next h).2
    rw [hm] at he
    obtain ⟨-, -, -, -, -, hreq, -⟩ := nextMove_frame s
    exact he.eq_of_ack_without_request (hreq.trans hb)

/-! ### A bus that never answers (R65) -/

/-- The quiet moves are all but an acknowledge and reset. -/
theorem isQuietMove_iff (m : Move) : isQuietMove m = true ↔ m ≠ .ack ∧ m ≠ .reset := by
  cases m <;> simp [isQuietMove]

/-- Settles O49: the moves are quiet, and a request that stood before quiet moves stands after them. -/
theorem unansweredBusLeavesTheBlockStuck : Obligations.UnansweredBusLeavesTheBlockStuck := by
  intro s ms tail hlive hseq hb hsched hack hreset
  have hquiet : ∀ m ∈ ms, isQuietMove m = true := fun m hm =>
    (isQuietMove_iff m).2 ⟨ne_of_mem_of_not_mem hm hack, ne_of_mem_of_not_mem hm hreset⟩
  obtain ⟨b, r, tk, hup, hrun⟩ := run_quiet ms s tail hlive hseq hsched hquiet
  obtain rfl : b = true := hup (.inl hb)
  refine ⟨_, hrun, rfl, rfl, hlive.2, rfl, ?_, rfl, rfl, rfl, rfl⟩
  rw [State.busAddr_of_busReq hb]
  rfl

end Sys2Proof.Machine
end

section
/-! PROOFS. The encoding (30_encoding.md): the decoder and the encoder as inverses (R81 to R83), the legal words by their
fields and their number (R84), the words of an assembly line (R86, R87); then `Accept` as a step (R89), and the balance
of responses and accepted commands that every step keeps (R88). -/

namespace Sys2Proof.Machine

/-! ### The decoder and the encoder are inverses (R81 to R83) -/

/-- No operand bit is lost in a command's word. -/
theorem decode_encode (i : Instr) : decode (encode i) = .ok i := by
  cases i with
  | waitblank | waitdraw | sync | readkeys => decide
  | ispressed mask button => simp [decode_by_fields, encode]

/-- No bit of a legal word is ignored. -/
theorem encode_of_decode {w : Word} {i : Instr} (h : decode w = .ok i) : encode i = w := by
  rcases decode_ok_cases h with ⟨rfl, rfl⟩ | ⟨rfl, rfl⟩ | ⟨rfl, rfl⟩ | ⟨rfl, rfl⟩ | ⟨hop, hz1, hz2, rfl⟩
  · decide
  · decide
  · decide
  · decide
  · rw [encode, ← hop, commandWord_fields w hz1 hz2]

theorem decode_eq_ok_iff (w : Word) (i : Instr) : decode w = .ok i ↔ encode i = w :=
  ⟨encode_of_decode, fun h => h ▸ decode_encode i⟩

theorem encode_injective : Function.Injective encode := fun i j h =>
  Except.ok.inj ((decode_encode i).symm.trans (h ▸ decode_encode j))

/-- Settles O1: `decode_encode`. -/
theorem encodeThenDecodeGivesBack : Obligations.EncodeThenDecodeGivesBack := decode_encode

/-- Settles O2: `encode_of_decode`. -/
theorem legalWordHasOneCommand : Obligations.LegalWordHasOneCommand := fun _ _ => encode_of_decode

/-! ### The rows of R83 -/

/-- The mask of the four rows without operands keeps every bit (R83). -/
theorem and_full_mask (w : Word) : w &&& 0xFFFFFFFF#32 = w :=
  BitVec.and_allOnes

/-- The row of `ISPRESSED`, with its operands the fields `A` and `B` (R82, R83). -/
theorem decode_eq_ispressed_iff (w : Word) (a b : Mask10) :
    decode w = .ok (.ispressed a b) ↔ w &&& 0xFC00FC00#32 = 0x50000000#32 ∧ fieldA w = a ∧ fieldB w = b := by
  rw [decode_eq_ok_iff, ispressed_mask_iff]
  constructor
  · rintro rfl
    simp [encode]
  · rintro ⟨⟨hop, hz1, hz2⟩, rfl, rfl⟩
    rw [encode, ← hop, commandWord_fields w hz1 hz2]

theorem fieldA_toNat (w : Word) : (fieldA w).toNat = w.toNat / 2 ^ 16 % 2 ^ 10 := by
  rw [fieldA, BitVec.extractLsb'_toNat, Nat.shiftRight_eq_div_pow]

theorem fieldB_toNat (w : Word) : (fieldB w).toNat = w.toNat % 2 ^ 10 := by
  rw [fieldB, BitVec.extractLsb'_toNat, Nat.shiftRight_zero]

/-- Settles O3: the four full masks name one word each, the fifth the fields that select `ISPRESSED`. -/
theorem wordSelectsCommandByMatchAndMask : Obligations.WordSelectsCommandByMatchAndMask := by
  refine ⟨fun w => ?_, by decide⟩
  have row (i : Instr) : w &&& 0xFFFFFFFF#32 = encode i ↔ decode w = .ok i := by
    rw [and_full_mask, decode_eq_ok_iff, eq_comm]
  refine ⟨row .waitblank, row .waitdraw, row .sync, row .readkeys, ?_, fun a b h => ?_⟩
  · simp only [decode_eq_ispressed_iff, exists_and_left, exists_eq', and_true]
  · obtain ⟨-, rfl, rfl⟩ := (decode_eq_ispressed_iff w a b).1 h
    exact ⟨fieldA_toNat w, fieldB_toNat w⟩

/-! ### The legal words, by fields and by number (R84) -/

theorem legalWord_iff_exists_decode (w : Word) : legalWord w = true ↔ ∃ i, decode w = .ok i := by
  unfold legalWord
  cases decode w <;> simp

theorem legalWord_eq_false_iff (w : Word) : legalWord w = false ↔ ∃ r, decode w = .error r := by
  unfold legalWord
  cases decode w <;> simp

/-- The legal words are the words of the commands. -/
theorem legalWord_iff_exists_encode (w : Word) : legalWord w = true ↔ ∃ i, encode i = w := by
  simp only [legalWord_iff_exists_decode, decode_eq_ok_iff]

/-- The fields of a command's word: zero where reserved, and its operands zero unless it is `ISPRESSED` (R81, R83). -/
theorem encode_fields (i : Instr) :
    fieldZ1 (encode i) = 0#2 ∧ fieldZ2 (encode i) = 0#6 ∧ (fieldOp (encode i) = 0x5#4
      ∨ ((1 ≤ (fieldOp (encode i)).toNat ∧ (fieldOp (encode i)).toNat ≤ 4)
        ∧ fieldA (encode i) = 0#10 ∧ fieldB (encode i) = 0#10)) := by
  cases i <;> simp [encode]

/-- A row without operands is selected by its `OP` when no other bit is set (R83). -/
theorem exists_encode_eq_commandWord {op : BitVec 4} (h1 : 1 ≤ op.toNat) (h4 : op.toNat ≤ 4) :
    ∃ i, encode i = commandWord op 0#10 0#10 := by
  obtain h | h | h | h : op.toNat = 1 ∨ op.toNat = 2 ∨ op.toNat = 3 ∨ op.toNat = 4 := by omega
  · exact ⟨.waitblank, by rw [BitVec.eq_of_toNat_eq (y := 1#4) h]; rfl⟩
  · exact ⟨.waitdraw, by rw [BitVec.eq_of_toNat_eq (y := 2#4) h]; rfl⟩
  · exact ⟨.sync, by rw [BitVec.eq_of_toNat_eq (y := 3#4) h]; rfl⟩
  · exact ⟨.readkeys, by rw [BitVec.eq_of_toNat_eq (y := 4#4) h]; rfl⟩

theorem legalWord_iff_fields (w : Word) :
    legalWord w = true ↔ fieldZ1 w = 0#2 ∧ fieldZ2 w = 0#6 ∧ (fieldOp w = 0x5#4
      ∨ ((1 ≤ (fieldOp w).toNat ∧ (fieldOp w).toNat ≤ 4) ∧ fieldA w = 0#10 ∧ fieldB w = 0#10)) := by
  rw [legalWord_iff_exists_encode]
  constructor
  · rintro ⟨i, rfl⟩
    exact encode_fields i
  · rintro ⟨hz1, hz2, hop | ⟨⟨h1, h4⟩, ha, hb⟩⟩
    · exact ⟨.ispressed (fieldA w) (fieldB w), by rw [encode, ← hop, commandWord_fields w hz1 hz2]⟩
    · rw [← commandWord_fields w hz1 hz2, ha, hb]
      exact exists_encode_eq_commandWord h1 h4

/-- Settles O4: the legal words field by field, negated; an `OP` that is not reserved is 5, or 1 to 4. -/
theorem illegalWordsAreTheReservedOnes : Obligations.IllegalWordsAreTheReservedOnes := by
  refine ⟨fun w => ?_, by decide, by decide⟩
  have h0 : fieldOp w = 0x0#4 ↔ (fieldOp w).toNat = 0 := BitVec.toNat_inj.symm
  have h5 : fieldOp w = 0x5#4 ↔ (fieldOp w).toNat = 5 := BitVec.toNat_inj.symm
  rw [← legalWord_eq_false_iff, ← Bool.not_eq_true, legalWord_iff_fields, h0, h5]
  constructor
  · intro h
    by_contra hn
    push Not at hn
    obtain ⟨⟨hop0, hop6⟩, hz1, hz2, hab⟩ := hn
    refine h ⟨hz1, hz2, ?_⟩
    by_cases hop : (fieldOp w).toNat = 5
    · exact .inl hop
    · have hrow : 1 ≤ (fieldOp w).toNat ∧ (fieldOp w).toNat ≤ 4 := by omega
      exact .inr ⟨hrow, hab hrow⟩
  · rintro h ⟨hz1, hz2, hop⟩
    rcases h with hres | hne | hne | ⟨hrow, hne⟩
    · omega
    · exact hne hz1
    · exact hne hz2
    · rcases hop with hop | ⟨-, ha, hb⟩
      · omega
      · exact hne.elim (absurd ha) (absurd hb)

/-- The commands: the four without operands, and the pairs of operands of `ISPRESSED` (R83). -/
def instrEquiv : Instr ≃ Fin 4 ⊕ Mask10 × Mask10 where
  toFun
    | .waitblank => .inl 0
    | .waitdraw => .inl 1
    | .sync => .inl 2
    | .readkeys => .inl 3
    | .ispressed mask button => .inr (mask, button)
  invFun
    | .inl 0 => .waitblank
    | .inl 1 => .waitdraw
    | .inl 2 => .sync
    | .inl 3 => .readkeys
    | .inr (mask, button) => .ispressed mask button
  left_inv i := by cases i <;> rfl
  right_inv x := by
    rcases x with k | _
    · fin_cases k <;> rfl
    · rfl

theorem card_mask10 : Nat.card Mask10 = 2 ^ 10 := by
  rw [Nat.card_congr BitVec.equivFin.toEquiv, Nat.card_fin]

theorem card_instr : Nat.card Instr = 4 + 2 ^ 20 := by
  have : Finite Mask10 := Nat.finite_of_card_ne_zero (by rw [card_mask10]; decide)
  rw [Nat.card_congr instrEquiv, Nat.card_sum, Nat.card_prod, card_mask10, Nat.card_fin, ← pow_add]

/-- Settles O5: the legal words are the range of the encoder, which is injective. -/
theorem legalWordsNumberFourAndTwoToTheTwenty : Obligations.LegalWordsNumberFourAndTwoToTheTwenty := by
  have hrange : {w : Word | legalWord w = true} = Set.range encode :=
    Set.ext legalWord_iff_exists_encode
  rw [Obligations.LegalWordsNumberFourAndTwoToTheTwenty, hrange, Set.ncard_range_of_injective encode_injective, card_instr]

/-- Settles O6: ten words, evaluated. -/
theorem listedWordsDecodeAsListed : Obligations.ListedWordsDecodeAsListed := by
  unfold Obligations.ListedWordsDecodeAsListed
  decide

/-! ### The words of an assembly line (R86, R87) -/

/-- The words of some commands decode to those commands. -/
theorem map_decode_map_encode (is : List Instr) : (is.map encode).map decode = is.map .ok := by
  simp [Function.comp_def, decode_encode]

theorem assemble_of_wellFormed {l : AsmLine} (m : Mask10) (h : l.wellFormed = true) :
    assemble m l = some ((expandLine m l).map encode) :=
  if_pos h

theorem assemble_of_not_wellFormed {l : AsmLine} (m : Mask10) (h : l.wellFormed = false) : assemble m l = none :=
  if_neg (by simp [h])

theorem operandValue_num_toNat {n : Nat} (h : (Operand.num n).wellFormed = true) : (operandValue (.num n)).toNat = n := by
  simp only [Operand.wellFormed, decide_eq_true_eq] at h
  rw [operandValue, BitVec.toNat_ofNat, Nat.mod_eq_of_lt h]

/-- The OR of some buttons' constants with a mask, bit by bit. -/
theorem foldl_buttonMask_getLsbD (keys : List Button) (i : Nat) : ∀ m : Mask10,
    (keys.foldl (fun m key => m ||| buttonMask key) m).getLsbD i = true
      ↔ m.getLsbD i = true ∨ ∃ key ∈ keys, i = buttonBit key := by
  induction keys with
  | nil => simp
  | cons key keys ih =>
    intro m
    simp [ih, buttonMask_getLsbD, or_assoc]

theorem operandValue_names_getLsbD (keys : List Button) (i : Nat) :
    (operandValue (.names keys)).getLsbD i = true ↔ ∃ key ∈ keys, i = buttonBit key := by
  simp [operandValue, foldl_buttonMask_getLsbD]

/-- Settles O7: form by form; the operands' values are those of a number and of a list of names. -/
theorem assembledLinesDecodeToTheirExpansion : Obligations.AssembledLinesDecodeToTheirExpansion := by
  intro m l
  refine ⟨assemble_of_not_wellFormed m, fun h => ⟨_, assemble_of_wellFormed m h, ?_⟩⟩
  cases l with
  | blank | waitblank | waitdraw | sync | readkeys | tick | vsync2 => rfl
  | held key => exact ⟨buttonMask key, map_decode_map_encode _, buttonMask_getLsbD key⟩
  | ispressed x y =>
    refine ⟨operandValue x, operandValue y, map_decode_map_encode _, fun o v ho => ?_⟩
    simp only [AsmLine.wellFormed, Bool.and_eq_true] at h
    obtain ⟨hwf, rfl⟩ : o.wellFormed = true ∧ v = operandValue o := by
      rcases ho with ⟨rfl, rfl⟩ | ⟨rfl, rfl⟩
      · exact ⟨h.1, rfl⟩
      · exact ⟨h.2, rfl⟩
    constructor
    · rintro n rfl
      exact operandValue_num_toNat hwf
    · rintro keys rfl
      exact operandValue_names_getLsbD keys

/-! ### `Accept` as a step (R89) -/

/-- Settles O12: the four arms write `SEQ` and `CHAIN`. -/
theorem waitsAndReadkeysEnterTheirState : Obligations.WaitsAndReadkeysEnterTheirState := fun _ =>
  ⟨rfl, rfl, rfl, rfl⟩

/-- The state in which `Accept` runs: the word on offer and the move taken, the pulses down. -/
def State.taken (rest : List Word) (ms : List Move) (s : State) : State :=
  ((s.setSchedule ms).dropPulses).setCmds rest

/-- A ready block whose turn it is accepts the word on offer. -/
theorem step_accept {s : State} {w : Word} {rest : List Word} {ms : List Move} (h : s.ready) (hc : s.cmds = w :: rest)
    (hs : s.schedule = .block :: ms) : step s = accept w (s.taken rest ms) := by
  rw [step_block h.1 hs]
  simp [blockStep, h.1.2, h.2, hc, State.taken]

/-- Settles O9: `Accept` of a word that decodes. -/
theorem stepRunsTheDecodedCommand : Obligations.StepRunsTheDecodedCommand := by
  intro s w rest ms i h hc hs hd
  rw [step_accept h hc hs, accept, hd]
  rfl

theorem afterAccept_of_ok {w : Word} {i : Instr} (h : decode w = .ok i) (s : State) :
    afterAccept w s = accepted i (s.log (.cmd w)) := by
  rw [afterAccept, h]

theorem afterAccept_of_error {w : Word} {r : Illegal} (h : decode w = .error r) (s : State) :
    afterAccept w s = raiseIllegalCommand w (s.log (.cmd w)) := by
  rw [afterAccept, h]

/-- Settles O14: `Accept` of a word that does not decode, field by field. -/
theorem illegalWordSetsFaultAndNothingElse : Obligations.IllegalWordSetsFaultAndNothingElse := by
  intro s w rest ms r h hc hs hd
  rw [step_accept h hc hs, accept_eq, afterAccept_of_error hd]
  exact congrArg Host.Outcome.next (by ext1 <;> simp [State.taken])

/-- Settles O10: `withFetchWord` makes the block ready, with the word on offer and the block to move. -/
theorem fetchedWordRunsNext : Obligations.FetchedWordRunsNext := by
  intro s w i hcfg hd
  have hw : BitVec.ofNat 32 (w.toNat % 2 ^ 32) = w := by
    rw [Nat.mod_eq_of_lt w.isLt, BitVec.ofNat_toNat, BitVec.setWidth_eq]
  rw [State.withFetchWord, hw]
  exact stepRunsTheDecodedCommand (offerFirst w s) w s.cmds s.schedule i ⟨⟨hcfg, rfl⟩, rfl⟩ rfl rfl hd

/-- An accepted word emits no tick and draws no free move (R89, R105). -/
theorem afterAccept_tick_drawn (w : Word) (s : State) :
    (afterAccept w s).tick = s.tick ∧ (afterAccept w s).drawn = s.drawn := by
  rcases afterAccept_cases w s with ⟨_, _, e, _⟩ | ⟨_, e, _⟩ | ⟨e, _⟩ <;> rw [e] <;> simp

/-- A command that writes `SEQ` and `CHAIN` writes nothing else, and is recorded (R89, R100 to R102, R120). -/
theorem afterAccept_enters (i : Instr) {w : Word} {q : Seq} {c : Bool} {s : State} (hw : w = encode i)
    (hi : ∀ u, accepted i u = (u.setSeq q).setChain c) (hfault : s.fault = none) (hrsp : s.rsp = none) :
    (afterAccept w s).seq = q ∧ (afterAccept w s).chain = c ∧ (afterAccept w s).fault = none
      ∧ (afterAccept w s).rsp = none ∧ (afterAccept w s).history = s.history ++ [.cmd w] := by
  simp [afterAccept_of_ok ((decode_eq_ok_iff w i).2 hw.symm), hi, hfault, hrsp]

/-- The response to `ISPRESSED`, from the bits the two operands have in common (R121). -/
theorem zextBool_anyHeld (a b : Mask10) : zextBool (anyHeld a b) = if a &&& b ≠ 0#10 then 1#16 else 0#16 := by
  simp [zextBool, anyHeld]

/-- A word that no row of R83 selects is illegal (R84). -/
theorem exists_decode_eq_error {w : Word} (h1 : w ≠ encode .waitblank) (h2 : w ≠ encode .waitdraw)
    (h3 : w ≠ encode .sync) (h4 : w ≠ encode .readkeys) (h5 : w &&& 0xFC00FC00#32 ≠ 0x50000000#32) :
    ∃ r, decode w = .error r := by
  cases hd : decode w with
  | error r => exact ⟨r, rfl⟩
  | ok i =>
    cases i with
    | waitblank => exact absurd (encode_of_decode hd).symm h1
    | waitdraw => exact absurd (encode_of_decode hd).symm h2
    | sync => exact absurd (encode_of_decode hd).symm h3
    | readkeys => exact absurd (encode_of_decode hd).symm h4
    | ispressed a b => exact absurd ((decode_eq_ispressed_iff w a b).1 hd).1 h5

/-- A step that is not taken from `IDLE` keeps the words on offer, with those offered meanwhile behind them (R89, R161). -/
theorem Effect.cmds_of_not_idle {s t : State} {m : Move} (he : Effect s m t) (hs : s.seq ≠ .idle) :
    t.cmds = s.cmds ++ offeredBy m := by
  cases he with
  | idle _ hidle | accept _ _ _ hidle => exact absurd hidle hs
  | poll _ _ hpoll =>
    obtain ⟨-, -, -, -, hcmds, -⟩ := poll_frame hpoll
    simp [hcmds, offeredBy]
  | keyRead => simp [keyRead_eq, offeredBy]
  | _ => simp [offeredBy, Machine.advance, Machine.change]

/-- Nor does it accept one (R89). -/
theorem Appends.cmd_not_mem_of_not_idle {s t : State} {es : List Event} (h : Appends s t es) (hs : s.seq ≠ .idle)
    (w : Word) : Event.cmd w ∉ es := by
  cases h with
  | entered _ _ ha | pressed _ _ _ ha | illegal _ _ ha => exact absurd ha.2.1 hs
  | _ => simp

/-- Settles O11: `Accept` row by row of R83, and the steps of a block that is not idle. -/
theorem acceptStepFollowsTheRule : Obligations.AcceptStepFollowsTheRule := by
  refine ⟨fun s w rest ms h hc hs => ?_, fun s t hs h => ?_⟩
  · obtain ⟨hlive, hidle⟩ := h
    have hfault := hlive.2
    refine ⟨_, (step_accept ⟨hlive, hidle⟩ hc hs).trans (accept_eq _ _), ?_, ?_⟩
    · obtain ⟨hcfg, hsched, hvcount, hkeyraw, hcmds⟩ := afterAccept_frame w (s.taken rest ms)
      obtain ⟨htick, hdrawn⟩ := afterAccept_tick_drawn w (s.taken rest ms)
      exact ⟨hcfg, afterAccept_phase w _, afterAccept_busReq w _, htick, hvcount, hkeyraw, hcmds, hsched, hdrawn⟩
    · by_cases h1 : w = 0x10000000#32
      · rw [if_pos h1]
        exact afterAccept_enters .waitblank h1 (fun _ => rfl) hfault rfl
      by_cases h2 : w = 0x20000000#32
      · rw [if_neg h1, if_pos h2]
        exact afterAccept_enters .waitdraw h2 (fun _ => rfl) hfault rfl
      by_cases h3 : w = 0x30000000#32
      · rw [if_neg h1, if_neg h2, if_pos h3]
        exact afterAccept_enters .sync h3 (fun _ => rfl) hfault rfl
      by_cases h4 : w = 0x40000000#32
      · rw [if_neg h1, if_neg h2, if_neg h3, if_pos h4]
        exact afterAccept_enters .readkeys h4 (fun _ => rfl) hfault rfl
      rw [if_neg h1, if_neg h2, if_neg h3, if_neg h4]
      by_cases h5 : w &&& 0xFC00FC00#32 = 0x50000000#32
      · rw [if_pos h5]
        have hd := (decode_eq_ispressed_iff w _ _).2 ⟨h5, rfl, rfl⟩
        exact ⟨_, zextBool_anyHeld (fieldA w) (fieldB w), by
          simp [afterAccept_of_ok hd, accepted, State.taken, hidle, hfault]⟩
      · rw [if_neg h5]
        obtain ⟨r, hd⟩ := exists_decode_eq_error h1 h2 h3 h4 h5
        simp [afterAccept_of_error hd, State.taken, hidle]
  · obtain ⟨ms, d, he⟩ := step_effect h
    obtain ⟨es, hhist, happ⟩ := step_appends h
    exact ⟨⟨_, by simpa using he.cmds_of_not_idle (by simpa using hs)⟩, es, hhist, happ.cmd_not_mem_of_not_idle hs⟩

/-! ### One response for each accepted legal command (R88) -/

/-- A command in progress. -/
def State.inProgress (s : State) : Nat := if s.seq = .idle then 0 else 1

/-- Of the events of a step, the legal commands are as many more than the responses as commands have got into progress;
reset, which appends itself alone, leaves none in progress. -/
theorem Appends.balance {s t : State} {es : List Event} (h : Appends s t es) :
    (es = [.reset] ∧ t.seq = .idle)
      ∨ (Event.reset ∉ es ∧ es.countP Event.isLegalCmd + s.inProgress = es.countP Event.isRsp + t.inProgress) := by
  cases h with
  | reset _ hq => exact .inl ⟨rfl, hq⟩
  | nothing _ _ hq => exact .inr ⟨by simp, by simp [State.inProgress, hq]⟩
  | entered w hl ha hq | pressed w _ hl ha hq | illegal w hl ha hq =>
    exact .inr ⟨by simp, by simp [State.inProgress, Event.isLegalCmd, Event.isRsp, hl, ha.2.1, hq]⟩
  | polled _ hs hq | ended _ hs hq =>
    have hs' : s.seq ≠ .idle := by rcases hs with h | ⟨h, -⟩ <;> simp [h]
    exact .inr ⟨by simp, by simp [State.inProgress, Event.isLegalCmd, Event.isRsp, hs', hq]⟩
  | ticked _ hs _ _ hq | keys _ _ hs hq =>
    exact .inr ⟨by simp, by simp [State.inProgress, Event.isLegalCmd, Event.isRsp, hs, hq]⟩

/-- Settles O34: the events of a step are in balance, and reset starts the count again. -/
theorem everyStepKeepsOneResponsePerCommand : Obligations.EveryStepKeepsOneResponsePerCommand := by
  intro s t hs h
  obtain ⟨es, hhist, happ⟩ := step_appends h
  rw [State.responsesBalanced, ← State.inProgress] at hs ⊢
  rcases happ.balance with ⟨rfl, hq⟩ | ⟨hreset, hbal⟩
  · simp [hhist, State.inProgress, hq]
  · rw [hhist, sinceReset_append _ _ hreset, List.countP_append, List.countP_append]
    omega

end Sys2Proof.Machine
end

section
/-! PROOFS. The frame synchronizer (40_sync.md): `Poll` case by case (R103), the three waits over any plan of polls (R100
to R102), what a wait guarantees over any schedule (R106), what ends one (R107), where the control moves (R108), and the
tick (R105). -/

namespace Sys2Proof.Machine

/-! ### `Poll`, case by case (R103, R104) -/

section Poll
variable {s : State}

theorem poll_of_blank_below (hs : s.seq = .pollBlank) (hv : s.vcount.toNat < s.cfg.blankThreshold.toNat) :
    poll s = s.afterRead .timing := by
  rw [poll_blank s hs, if_neg]
  simpa [blanking_iff] using hv

theorem poll_of_blank_chained (hs : s.seq = .pollBlank) (hv : s.cfg.blankThreshold.toNat ≤ s.vcount.toNat)
    (hc : s.chain = true) :
    poll s = (((s.afterRead .timing).setPhase .blankPhase).setChain false).setSeq .pollDraw := by
  rw [poll_blank s hs, if_pos ((blanking_iff ..).2 hv), if_pos hc]

theorem poll_of_blank_alone (hs : s.seq = .pollBlank) (hv : s.cfg.blankThreshold.toNat ≤ s.vcount.toNat)
    (hc : s.chain = false) : poll s = complete (respond 0#16 ((s.afterRead .timing).setPhase .blankPhase)) := by
  rw [poll_blank s hs, if_pos ((blanking_iff ..).2 hv), if_neg (by simp [hc])]

theorem poll_of_draw_above (hs : s.seq = .pollDraw) (hv : s.cfg.blankThreshold.toNat ≤ s.vcount.toNat) :
    poll s = s.afterRead .timing := by
  rw [poll_draw s (by simp [hs]), if_neg]
  simpa [drawable_iff] using hv

theorem poll_of_draw_ticking (hs : s.seq = .pollDraw) (hv : s.vcount.toNat < s.cfg.blankThreshold.toNat)
    (hp : s.phase = .blankPhase) :
    poll s = complete (respond 1#16 (emitTick ((s.afterRead .timing).setPhase .drawPhase))) := by
  rw [poll_draw s (by simp [hs]), if_pos ((drawable_iff ..).2 hv), if_pos hp]

theorem poll_of_draw_silent (hs : s.seq = .pollDraw) (hv : s.vcount.toNat < s.cfg.blankThreshold.toNat)
    (hp : s.phase = .drawPhase) : poll s = complete (respond 0#16 ((s.afterRead .timing).setPhase .drawPhase)) := by
  rw [poll_draw s (by simp [hs]), if_pos ((drawable_iff ..).2 hv), if_neg (by simp [hp])]

end Poll

/-- Settles O16: the acknowledge is `Poll`, whose cases are the six. -/
theorem pollStepFollowsTheRule : Obligations.PollStepFollowsTheRule := by
  intro s ms hlive hpoll hreq hsched base hbase
  obtain rfl : base = (s.setSchedule ms).dropPulses.afterRead .timing := hbase
  rw [step_ack_poll hlive hreq hpoll hsched]
  refine ⟨fun hs hv => congrArg Host.Outcome.next ?blankSpin, fun hs hv hc => congrArg Host.Outcome.next ?handOver,
    fun hs hv hc => congrArg Host.Outcome.next ?blankEnd, fun hs hv => congrArg Host.Outcome.next ?drawSpin,
    fun hs hv hp => congrArg Host.Outcome.next ?tick, fun hs hv hp => congrArg Host.Outcome.next ?noTick⟩
  case blankSpin => exact poll_of_blank_below hs hv
  case handOver => exact poll_of_blank_chained hs hv hc
  case blankEnd => exact poll_of_blank_alone hs hv hc
  case drawSpin => exact poll_of_draw_above hs hv
  case tick =>
    refine Eq.trans (poll_of_draw_ticking hs hv hp) ?_
    ext1 <;> simp
  case noTick => exact poll_of_draw_silent hs hv hp

/-! ### The reads of some samples -/

@[simp] theorem timingReads_nil (c : Config) : timingReads c [] = [] := rfl

theorem timingReads_append (c : Config) (xs ys : List Half) :
    timingReads c (xs ++ ys) = timingReads c xs ++ timingReads c ys :=
  List.map_append

@[simp] theorem timingReads_cons (c : Config) (x : Half) (xs : List Half) :
    timingReads c (x :: xs) = .read c.timingAddr x :: timingReads c xs := rfl

@[simp] theorem filter_isRead_timingReads (c : Config) (xs : List Half) :
    (timingReads c xs).filter Event.isRead = timingReads c xs :=
  List.filter_eq_self.2 (by simp [timingReads, Event.isRead])

@[simp] theorem countP_isTick_timingReads (c : Config) (xs : List Half) : (timingReads c xs).countP Event.isTick = 0 :=
  List.countP_eq_zero.2 (by simp [timingReads, Event.isTick])

@[simp] theorem countP_isRsp_timingReads (c : Config) (xs : List Half) : (timingReads c xs).countP Event.isRsp = 0 :=
  List.countP_eq_zero.2 (by simp [timingReads, Event.isRsp])

/-! ### The three waits over a plan of polls (R100 to R102) -/

/-- Settles O19: `Accept`, then the polls of the plan, the last of which completes the blank wait. -/
theorem waitblankRunsToItsResponse : Obligations.WaitblankRunsToItsResponse := by
  intro s rest plan tail ys y hready hcmds hsched hquiet hsamples hys hy
  rw [run_add (run_accept hready hcmds hsched (i := .waitblank) (by decide))]
  refine Eq.trans (run_wait plan _ tail ys y hready.1 (.inl ⟨rfl, hys⟩) hsamples rfl hquiet) ?_
  refine congrArg Host.Outcome.next (Eq.trans (poll_of_blank_alone rfl hy rfl) ?_)
  ext1 <;> simp [accepted, timingReads_append, BusTarget.addr, BusTarget.value]

/-- A draw wait over a plan of polls, from the poll state on: its tick is decided by the `PHASE` it finds (R101, R105). -/
theorem run_drawWait (plan : List (List Move)) (s : State) (tail : List Move) (ys : List Half) (y : Half) (h : s.live)
    (hseq : s.seq = .pollDraw) (hys : ∀ x ∈ ys, s.cfg.blankThreshold.toNat ≤ x.toNat)
    (hy : y.toNat < s.cfg.blankThreshold.toNat) (hsamples : planSamples s.cfg s.vcount plan = ys ++ [y])
    (hsched : s.schedule = pollPlan plan ++ tail) (hquiet : quietPlan plan) :
    run (pollPlan plan).length s = .next { s with
      seq := .idle, chain := false, phase := .drawPhase, busReq := false,
      rsp := some (if s.phase = .blankPhase then 1#16 else 0#16), tick := decide (s.phase = .blankPhase),
      vcount := y, keyraw := keysAfterAll s.keyraw plan.flatten, cmds := s.cmds ++ offeredByAll plan.flatten,
      schedule := tail,
      history := s.history ++ timingReads s.cfg (ys ++ [y])
        ++ (if s.phase = .blankPhase then [.tick, .rsp 1#16] else [.rsp 0#16]) } := by
  rw [run_wait plan s tail ys y h (.inr ⟨hseq, hys⟩) hsamples hsched hquiet]
  refine congrArg Host.Outcome.next ?_
  cases hp : s.phase with
  | blankPhase =>
    refine Eq.trans (poll_of_draw_ticking hseq hy rfl) ?_
    ext1 <;> simp [timingReads_append, BusTarget.addr, BusTarget.value]
  | drawPhase =>
    refine Eq.trans (poll_of_draw_silent hseq hy rfl) ?_
    ext1 <;> simp [timingReads_append, BusTarget.addr, BusTarget.value]

/-- Settles O20: `Accept`, then a draw wait from the `PHASE` that stood. -/
theorem waitdrawRunsToItsResponse : Obligations.WaitdrawRunsToItsResponse := by
  intro s rest plan tail ys y hready hcmds hsched hquiet hsamples hys hy
  rw [run_add (run_accept hready hcmds hsched (i := .waitdraw) (by decide))]
  exact run_drawWait plan _ tail ys y hready.1 rfl hys hy hsamples rfl hquiet

theorem quietPlan_append {p q : List (List Move)} : quietPlan (p ++ q) ↔ quietPlan p ∧ quietPlan q :=
  List.forall_mem_append

/-- Settles O21: the plan splits where the blank half ends; its last poll sets `PHASE` and hands over to the draw half,
which therefore ticks. -/
theorem syncRunsToItsOneTick : Obligations.SyncRunsToItsOneTick := by
  intro s rest plan tail xs ys x y hready hcmds hsched hquiet hsamples hxs hx hys hy
  obtain ⟨p, q, rfl, hp, hq⟩ := planSamples_split hsamples
  obtain ⟨hquietp, hquietq⟩ := quietPlan_append.1 hquiet
  rw [planSamples_last hp] at hq
  rw [pollPlan_append, List.append_assoc] at hsched
  rw [run_add (run_accept hready hcmds hsched (i := .sync) (by decide)), pollPlan_append, List.length_append]
  refine Eq.trans (run_add (Eq.trans
    (run_wait p _ (pollPlan q ++ tail) xs x hready.1 (.inl ⟨rfl, hxs⟩) hp rfl hquietp)
    (congrArg Host.Outcome.next (poll_of_blank_chained rfl hx rfl)))) ?_
  refine Eq.trans (run_drawWait q _ tail ys y hready.1 rfl hys hy hq rfl hquietq) ?_
  refine congrArg Host.Outcome.next ?_
  ext1 <;> simp [accepted, timingReads_append, keysAfterAll, offeredByAll, BusTarget.addr, BusTarget.value]

/-- Settles O22: each of the three whole commands, over its part of the polls. -/
theorem syncIsTheTwoWaitsInOne : Obligations.SyncIsTheTwoWaitsInOne := by
  rintro s rest p q tail hready hquietp hquietq ⟨xs, x, hp, hxs, hx⟩ ⟨ys, y, hq, hys, hy⟩
  have hpq : planSamples s.cfg s.vcount (p ++ q) = (xs ++ [x]) ++ (ys ++ [y]) := by rw [planSamples_append, hp, hq]
  rw [planSamples_last hp] at hq
  have hsync := syncRunsToItsOneTick
    { s with cmds := 0x30000000#32 :: rest, schedule := .block :: (pollPlan (p ++ q) ++ tail) }
    rest (p ++ q) tail xs ys x y hready rfl rfl (quietPlan_append.2 ⟨hquietp, hquietq⟩) hpq hxs hx hys hy
  have hblank := waitblankRunsToItsResponse
    { s with
      cmds := 0x10000000#32 :: 0x20000000#32 :: rest,
      schedule := .block :: (pollPlan p ++ .block :: (pollPlan q ++ tail)) }
    (0x20000000#32 :: rest) p (.block :: (pollPlan q ++ tail)) xs x hready rfl rfl hquietp hp hxs hx
  refine ⟨_, _, hsync,
    Eq.trans (run_add hblank) (waitdrawRunsToItsResponse _ _ q tail ys y ⟨hready.1, rfl⟩ rfl rfl hquietq hq hys hy),
    ?reads, ?oneTick, ?oneTick', rfl, by simp, rfl, rfl, rfl, ?responses⟩
  case reads => simp [timingReads_append, List.filter_cons, Event.isRead]
  case oneTick | oneTick' => simp [List.countP_cons, Event.isTick]
  case responses => simp [List.countP_cons, Event.isRsp]

/-! ### A display that stands still (R107, R170) -/

/-- Without a Display step the counter stands still (R147). -/
theorem countAfterAll_of_no_advance (c : Config) (v : Half) {ms : List Move} (h : Move.advance ∉ ms) :
    countAfterAll c v ms = v := by
  induction ms with
  | nil => rfl
  | cons m ms ih =>
    obtain ⟨hm, hms⟩ := not_or.1 (List.mem_cons.not.1 h)
    rw [countAfterAll, List.foldl_cons, countAfter_eq_ite, if_neg (Ne.symm hm)]
    exact ih hms

/-- So every poll of such a plan reads the same sample. -/
theorem planSamples_of_no_advance (c : Config) (v : Half) {plan : List (List Move)}
    (h : ∀ ms ∈ plan, Move.advance ∉ ms) : planSamples c v plan = List.replicate plan.length v := by
  induction plan with
  | nil => rfl
  | cons ms plan ih =>
    obtain ⟨hms, hplan⟩ := List.forall_mem_cons.1 h
    rw [planSamples, countAfterAll_of_no_advance c v hms, ih hplan]
    rfl

/-- Settles O27: none of the polls ends the wait, for all their samples are the one outside the awaited region. -/
theorem haltedDisplayKeepsTheWaitPolling : Obligations.HaltedDisplayKeepsTheWaitPolling := by
  intro s plan tail hlive hquiet hhalted hout hsched
  have hsamples := planSamples_of_no_advance s.cfg s.vcount hhalted
  obtain ⟨b, r, tk, hrun⟩ := run_spin plan s tail hlive
    (hout.imp (And.imp_right fun hv => by simp [hsamples, hv]) (And.imp_right fun hv => by simp [hsamples, hv]))
    hsched hquiet
  have hstill : Move.advance ∉ plan.flatten := by simpa using hhalted
  exact ⟨_, hrun, rfl, rfl, rfl, hlive.2, countAfterAll_of_no_advance _ _ hstill, rfl, rfl, rfl, by
    simp [hsamples, timingReads]⟩

/-! ### A step from a polling state (R103, R107) -/

/-- From a polling state a step is `Poll`, when the bus answers, or leaves the wait as it is; reset apart. -/
theorem step_of_polling {s t : State} (h : step s = .next t) (hs : s.seq = .pollBlank ∨ s.seq = .pollDraw)
    (hm : (nextMove s).1 ≠ .reset) :
    (s.answered ∧ ∃ ms d, t = poll (((s.setSchedule ms).setDrawn d).dropPulses))
      ∨ (t.control = s.control ∧ t.phase = s.phase ∧ t.cfg = s.cfg ∧ t.history = s.history) := by
  have hbusy : s.seq ≠ .idle := by rcases hs with hs | hs <;> simp [hs]
  obtain ⟨ms, d, he⟩ := step_effect h
  generalize hmove : (nextMove s).1 = m at he hm
  cases he with
  | poll hf hb => exact .inl ⟨⟨hmove, hb, hf⟩, ms, d, rfl⟩
  | idle | request | noRead | offer | advance | change =>
    exact .inr (by simp [State.control, Machine.advance, Machine.change])
  | accept _ _ _ hidle => exact absurd hidle hbusy
  | keyRead _ _ hkey => rcases hs with hs | hs <;> cases hs.symm.trans hkey
  | reset => exact absurd rfl hm

/-- `Poll` leaves `SEQ` as it is unless its sample is the awaited one (R103, R107). -/
theorem poll_seq {s : State} (hs : s.seq = .pollBlank ∨ s.seq = .pollDraw) :
    (poll s).seq = s.seq ∨ (s.seq = .pollBlank ∧ s.cfg.blankThreshold.toNat ≤ s.vcount.toNat)
      ∨ (s.seq = .pollDraw ∧ s.vcount.toNat < s.cfg.blankThreshold.toNat) := by
  rcases poll_cases s hs with ⟨e, -⟩ | ⟨-, hq, hv, -⟩ | ⟨-, hq, hv, -⟩ | ⟨-, hq, hv, -⟩ | ⟨-, hq, hv, -⟩
  · exact .inl (by rw [e]; rfl)
  · exact .inr (.inl ⟨hq, hv⟩)
  · exact .inr (.inl ⟨hq, hv⟩)
  · exact .inr (.inr ⟨hq, hv⟩)
  · exact .inr (.inr ⟨hq, hv⟩)

/-- Settles O28: a step of a wait is reset, `Poll`, or none of its own. -/
theorem onlyTheSampleOrResetEndsAWait : Obligations.OnlyTheSampleOrResetEndsAWait := by
  intro s t h hs
  obtain ⟨es, hes, happ⟩ := step_appends h
  refine ⟨?_, es, hes, happ.cmd_not_mem_of_not_idle (by rcases hs with hs | hs <;> simp [hs])⟩
  by_cases hm : (nextMove s).1 = .reset
  · exact .inr (.inl hm)
  rcases step_of_polling h hs hm with ⟨ha, ms, d, rfl⟩ | ⟨hcontrol, -⟩
  · exact (poll_seq (s := ((s.setSchedule ms).setDrawn d).dropPulses) hs).imp_right fun hv =>
      .inr (hv.imp (⟨ha, ·⟩) (⟨ha, ·⟩))
  · exact .inl (congrArg Prod.fst hcontrol)

/-! ### What ends a wait in progress (R106) -/

/-- The samples that end a wait which stands as in `s`: what its command guarantees of the reads that are left. -/
def State.endedBy (s : State) (samples : List Half) : Prop :=
  match s.seq with
  | .pollBlank => if s.chain then syncGuarantee s.cfg samples else blankGuarantee s.cfg samples
  | .pollDraw => drawGuarantee s.cfg samples
  | .idle => False
  | .readKey => False

theorem State.endedBy_of_blank {s : State} (hs : s.seq = .pollBlank) (hc : s.chain = false) (xs : List Half) :
    s.endedBy xs ↔ blankGuarantee s.cfg xs := by simp [State.endedBy, hs, hc]

theorem State.endedBy_of_chained {s : State} (hs : s.seq = .pollBlank) (hc : s.chain = true) (xs : List Half) :
    s.endedBy xs ↔ syncGuarantee s.cfg xs := by simp [State.endedBy, hs, hc]

theorem State.endedBy_of_draw {s : State} (hs : s.seq = .pollDraw) (xs : List Half) :
    s.endedBy xs ↔ drawGuarantee s.cfg xs := by simp [State.endedBy, hs]

/-- The events of that end after the reads: the tick if any, and the response. -/
def State.endEvents (s : State) : List Event :=
  if s.seq = .pollBlank ∧ s.chain = true ∨ s.seq = .pollDraw ∧ s.phase = .blankPhase then [.tick, .rsp 1#16]
  else [.rsp 0#16]

theorem State.endedBy_congr {s t : State} (hcontrol : t.control = s.control) (hcfg : t.cfg = s.cfg) (xs : List Half) :
    t.endedBy xs = s.endedBy xs := by
  obtain ⟨hseq, hchain⟩ := Prod.mk.inj hcontrol
  rw [State.endedBy, State.endedBy, hseq, hchain, hcfg]

theorem State.endEvents_congr {s t : State} (hcontrol : t.control = s.control) (hphase : t.phase = s.phase) :
    t.endEvents = s.endEvents := by
  obtain ⟨hseq, hchain⟩ := Prod.mk.inj hcontrol
  rw [State.endEvents, State.endEvents, hseq, hchain, hphase]

section Guarantees
variable {c : Config} {x : Half} {xs : List Half}

theorem blankGuarantee_singleton (hx : c.blankThreshold.toNat ≤ x.toNat) : blankGuarantee c [x] :=
  ⟨[], x, rfl, by simp, hx⟩

theorem blankGuarantee.cons (h : blankGuarantee c xs) (hx : x.toNat < c.blankThreshold.toNat) :
    blankGuarantee c (x :: xs) := by
  obtain ⟨ys, y, rfl, hys, hy⟩ := h
  exact ⟨x :: ys, y, rfl, List.forall_mem_cons.2 ⟨hx, hys⟩, hy⟩

theorem drawGuarantee_singleton (hx : x.toNat < c.blankThreshold.toNat) : drawGuarantee c [x] :=
  ⟨[], x, rfl, by simp, hx⟩

theorem drawGuarantee.cons (h : drawGuarantee c xs) (hx : c.blankThreshold.toNat ≤ x.toNat) :
    drawGuarantee c (x :: xs) := by
  obtain ⟨ys, y, rfl, hys, hy⟩ := h
  exact ⟨x :: ys, y, rfl, List.forall_mem_cons.2 ⟨hx, hys⟩, hy⟩

theorem syncGuarantee.cons (h : syncGuarantee c xs) (hx : x.toNat < c.blankThreshold.toNat) :
    syncGuarantee c (x :: xs) := by
  obtain ⟨ys, zs, rfl, hys, hzs⟩ := h
  exact ⟨x :: ys, zs, rfl, hys.cons hx, hzs⟩

/-- The sample that ends the blank half leaves the draw half to do. -/
theorem drawGuarantee.syncGuarantee_cons (h : drawGuarantee c xs) (hx : c.blankThreshold.toNat ≤ x.toNat) :
    syncGuarantee c (x :: xs) :=
  ⟨[x], xs, rfl, blankGuarantee_singleton hx, h⟩

end Guarantees

/-- From `s` to `t` a wait reads the samples `xs`: they end it, or it polls on and what ends it from `t` ends it from `s`
after `xs`. -/
def State.waitReads (s t : State) (xs : List Half) : Prop :=
  (t.seq = .idle ∧ s.endedBy xs ∧ t.history = s.history ++ timingReads s.cfg xs ++ s.endEvents)
    ∨ ((t.seq = .pollBlank ∨ t.seq = .pollDraw) ∧ (∀ ys, t.endedBy ys → s.endedBy (xs ++ ys))
      ∧ t.cfg = s.cfg ∧ t.endEvents = s.endEvents ∧ t.history = s.history ++ timingReads s.cfg xs)

theorem State.waitReads.congr {s s' t : State} {xs : List Half} (h : s'.waitReads t xs) (hcontrol : s'.control = s.control)
    (hphase : s'.phase = s.phase) (hcfg : s'.cfg = s.cfg) (hhist : s'.history = s.history) : s.waitReads t xs := by
  simpa only [State.waitReads, State.endedBy_congr hcontrol hcfg, State.endEvents_congr hcontrol hphase, hcfg, hhist] using h

/-- A sample outside the awaited region is one more before those that end the wait. -/
theorem State.endedBy_cons_of_outside {s : State} {x : Half} {xs : List Half}
    (hx : (s.seq = .pollBlank ∧ x.toNat < s.cfg.blankThreshold.toNat)
      ∨ (s.seq = .pollDraw ∧ s.cfg.blankThreshold.toNat ≤ x.toNat)) (h : s.endedBy xs) : s.endedBy (x :: xs) := by
  rcases hx with ⟨hs, hx⟩ | ⟨hs, hx⟩
  · cases hc : s.chain with
    | false =>
      rw [State.endedBy_of_blank hs hc] at h ⊢
      exact h.cons hx
    | true =>
      rw [State.endedBy_of_chained hs hc] at h ⊢
      exact h.cons hx
  · rw [State.endedBy_of_draw hs] at h ⊢
    exact h.cons hx

/-- `Poll` reads one sample for the wait (R103). -/
theorem poll_waitReads {s : State} (hs : s.seq = .pollBlank ∨ s.seq = .pollDraw) : s.waitReads (poll s) [s.vcount] := by
  rcases poll_cases s hs with ⟨e, hv⟩ | ⟨e, hq, hv, hc⟩ | ⟨e, hq, hv, hc⟩ | ⟨e, hq, hv, hp⟩ | ⟨e, hq, hv, hp⟩ <;>
    rw [e]
  · exact .inr ⟨hs, fun ys => State.endedBy_cons_of_outside (s := s) hv, rfl, rfl, rfl⟩
  · refine .inr ⟨.inr rfl, fun ys hys => ?_, rfl, by simp [State.endEvents, hq, hc], rfl⟩
    rw [State.endedBy_of_draw rfl] at hys
    exact (State.endedBy_of_chained hq hc _).2 (hys.syncGuarantee_cons hv)
  · exact .inl ⟨rfl, (State.endedBy_of_blank hq hc _).2 (blankGuarantee_singleton hv), by
      simp [State.endEvents, hq, hc, BusTarget.addr, BusTarget.value]⟩
  · exact .inl ⟨rfl, (State.endedBy_of_draw hq _).2 (drawGuarantee_singleton hv), by
      simp [State.endEvents, hq, hp, BusTarget.addr, BusTarget.value]⟩
  · exact .inl ⟨rfl, (State.endedBy_of_draw hq _).2 (drawGuarantee_singleton hv), by
      simp [State.endEvents, hq, hp, BusTarget.addr, BusTarget.value]⟩

/-- A step of a wait reads one sample for it or none, whichever agent moves; reset apart. -/
theorem step_waitReads {s t : State} (h : step s = .next t) (hs : s.seq = .pollBlank ∨ s.seq = .pollDraw)
    (hm : (nextMove s).1 ≠ .reset) : ∃ xs, s.waitReads t xs := by
  rcases step_of_polling h hs hm with ⟨-, ms, d, rfl⟩ | ⟨hcontrol, hphase, hcfg, hhist⟩
  · have hread := poll_waitReads (s := ((s.setSchedule ms).setDrawn d).dropPulses) hs
    exact ⟨[s.vcount], hread.congr rfl rfl rfl rfl⟩
  · refine ⟨[], .inr ⟨?_, fun ys hys => ?_, hcfg, State.endEvents_congr hcontrol hphase, by simp [hhist]⟩⟩
    · rwa [show t.seq = s.seq from congrArg Prod.fst hcontrol]
    · rwa [State.endedBy_congr hcontrol hcfg] at hys

/-- A wait that ends with the last of some moves has read samples that end it, and appended the events of its end. -/
theorem run_to_end_of_wait (tail : List Move) : ∀ (ms : List Move) (s t : State),
    (s.seq = .pollBlank ∨ s.seq = .pollDraw) → s.schedule = ms ++ tail → Move.reset ∉ ms →
    (∀ j u, j < ms.length → run j s = .next u → u.seq ≠ .idle) → run ms.length s = .next t → t.seq = .idle →
      ∃ xs, s.endedBy xs ∧ t.history = s.history ++ timingReads s.cfg xs ++ s.endEvents := by
  intro ms
  induction ms with
  | nil =>
    intro s t hs _ _ _ hrun hidle
    cases hrun
    rcases hs with hs | hs <;> cases hs.symm.trans hidle
  | cons m ms ih =>
    intro s t hs hsched hreset hbusy hrun hidle
    obtain ⟨hm, hms⟩ := not_or.1 (List.mem_cons.not.1 hreset)
    obtain ⟨u, hu, hrest⟩ := run_succ_next hrun
    have hmove : nextMove s = (m, s.setSchedule (ms ++ tail)) := by simp [nextMove, hsched]
    obtain ⟨-, husched, -⟩ := step_frame hu
    obtain ⟨xs, ⟨huidle, hend, hhist⟩ | ⟨hpoll, hend, hcfg, hevents, hhist⟩⟩ :=
      step_waitReads hu hs (by simpa [hmove] using Ne.symm hm)
    · cases ms with
      | nil => cases hrest; exact ⟨xs, hend, hhist⟩
      | cons => exact absurd huidle (hbusy 1 u (by simp) (by rw [run_succ hu]; rfl))
    · obtain ⟨ys, hys, hend'⟩ := ih u t hpoll (by simpa [hmove] using husched) hms
        (fun j v hj hv => hbusy (j + 1) v (by simpa using hj) (by rwa [run_succ hu])) hrest hidle
      exact ⟨xs ++ ys, hend ys hys, by rw [hend', hhist, hcfg, hevents, timingReads_append, List.append_assoc s.history]⟩

/-- Settles O23: `Accept` enters the wait, which the rest of the run takes to its end. -/
theorem completedWaitMeetsItsGuarantee : Obligations.CompletedWaitMeetsItsGuarantee := by
  intro s t w rest ms tail hready hcmds hsched hreset hrun hidle hbusy
  have hwait (i : Instr) (q : Seq) (c : Bool) (hd : decode w = .ok i) (hi : ∀ u, accepted i u = (u.setSeq q).setChain c)
      (hq : q = .pollBlank ∨ q = .pollDraw) : ∃ xs, ((s.setSeq q).setChain c).endedBy xs
        ∧ t.history = s.history ++ [.cmd w] ++ timingReads s.cfg xs ++ ((s.setSeq q).setChain c).endEvents := by
    have haccept := run_accept hready hcmds hsched hd
    rw [hi] at haccept
    refine run_to_end_of_wait tail ms _ t hq rfl hreset (fun j u hj hu => ?_) ((run_add haccept).symm.trans hrun) hidle
    exact hbusy (1 + j) u (by omega) (by omega) ((run_add haccept).trans hu)
  refine ⟨?_, ?_, ?_⟩ <;> rintro rfl
  · exact hwait .waitblank .pollBlank false (by decide) (fun _ => rfl) (.inl rfl)
  · simpa [State.endedBy, State.endEvents] using hwait .waitdraw .pollDraw false (by decide) (fun _ => rfl) (.inr rfl)
  · exact hwait .sync .pollBlank true (by decide) (fun _ => rfl) (.inl rfl)

/-! ### Where the control moves (R108) -/

/-- `Accept` moves the control from `IDLE, 0` along a row of the table (R89). -/
theorem afterAccept_controlEdge (w : Word) {s : State} (hs : s.seq = .idle) (hc : s.chain = false) :
    (s.control, (afterAccept w s).control) ∈ controlEdges := by
  rcases afterAccept_cases w s with ⟨q, c, e, hq, -⟩ | ⟨v, e, -⟩ | ⟨e, -⟩ <;> rw [e]
  · rcases hq with rfl | ⟨rfl, rfl⟩ | ⟨rfl, rfl⟩
    · cases c <;> simp [State.control, hs, hc, controlEdges]
    · simp [State.control, hs, hc, controlEdges]
    · simp [State.control, hs, hc, controlEdges]
  · simp [State.control, hs, hc, controlEdges]
  · simp [State.control, hs, hc, controlEdges]

/-- `Poll` moves it along a row, the spin included (R103). -/
theorem poll_controlEdge {s : State} (hs : s.seq = .pollBlank ∨ s.seq = .pollDraw) (h : s.controlInv) :
    (s.control, (poll s).control) ∈ controlEdges := by
  have hdraw (hq : s.seq = .pollDraw) : s.chain = false := by simpa [hq] using h.1
  rcases poll_cases s hs with ⟨e, ⟨hq, -⟩ | ⟨hq, -⟩⟩ | ⟨e, hq, -, hc⟩ | ⟨e, hq, -, hc⟩ | ⟨e, hq, -⟩ | ⟨e, hq, -⟩ <;>
    rw [e]
  · cases hc : s.chain <;> simp [State.control, hq, hc, controlEdges]
  · simp [State.control, hq, hdraw hq, controlEdges]
  · simp [State.control, hq, hc, controlEdges]
  · simp [State.control, hq, hc, controlEdges]
  · simp [State.control, hq, hdraw hq, controlEdges]
  · simp [State.control, hq, hdraw hq, controlEdges]

/-- `KeyRead` moves it back to `IDLE, 0` (R120). -/
theorem keyRead_controlEdge {s : State} (hs : s.seq = .readKey) (h : s.controlInv) :
    (s.control, (keyRead s).control) ∈ controlEdges := by
  have hc : s.chain = false := by simpa [hs] using h.1
  simp [State.control, keyRead_eq, hs, hc, controlEdges]

/-- The block's accepting move, the answered acknowledge and reset are the moves that move the control. -/
theorem Effect.control_cases {s t : State} {m : Move} (he : Effect s m t) (h : s.controlInv) :
    (((m = .block ∧ s.seq = .idle ∧ s.cmds ≠ []) ∨ (m = .ack ∧ s.busReq = true ∧ s.fault = none))
        ∧ (s.control, t.control) ∈ controlEdges)
      ∨ (m = .reset ∧ t.control = (.idle, false))
      ∨ (¬ (m = .block ∧ s.seq = .idle ∧ s.cmds ≠ []) ∧ ¬ (m = .ack ∧ s.busReq = true ∧ s.fault = none)
        ∧ m ≠ .reset ∧ t.control = s.control) := by
  cases he with
  | accept w rest _ hs hc =>
    exact .inl ⟨.inl ⟨rfl, hs, by simp [hc]⟩, afterAccept_controlEdge w (s := s.setCmds rest) hs (h.of_idle hs).1⟩
  | poll hf hb hs => exact .inl ⟨.inr ⟨rfl, hb, hf⟩, poll_controlEdge hs h⟩
  | keyRead hf hb hs => exact .inl ⟨.inr ⟨rfl, hb, hf⟩, keyRead_controlEdge hs h⟩
  | reset => exact .inr (.inl ⟨rfl, rfl⟩)
  | noRead hn =>
    have hb : s.busReq ≠ true := fun hb => (h.of_busReq hb).1 (hn hb (h.of_busReq hb).2)
    exact .inr (.inr (by simp [hb]))
  | idle _ _ hc => exact .inr (.inr (by simp [hc]))
  | request _ hs => exact .inr (.inr (by simp [hs, State.control]))
  | offer | advance | change => exact .inr (.inr (by simp [State.control, Machine.advance, Machine.change]))

/-- Settles O37: the moves are told apart, and each moves the control as its case says. -/
theorem controlMovesOnlyAlongTheTable : Obligations.ControlMovesOnlyAlongTheTable := by
  intro s t hinv h
  obtain ⟨ms, d, he⟩ := step_effect h
  rcases he.control_cases (hinv.dropPulses ms d) with ⟨hread, hedge⟩ | ⟨hm, hcontrol⟩ | ⟨hna, hnr, hm, hcontrol⟩
  · refine ⟨fun _ => hedge, fun hm => ?_, fun hna hnr => ?_⟩
    · rcases hread with ⟨hm', -⟩ | ⟨hm', -⟩ <;> cases hm.symm.trans hm'
    · exact absurd hread (not_or.2 ⟨hna, hnr⟩)
  · refine ⟨?_, fun _ => hcontrol, fun _ _ hm' => absurd hm hm'⟩
    rintro (⟨hm', -⟩ | ⟨hm', -⟩) <;> cases hm.symm.trans hm'
  · exact ⟨fun hread => absurd hread (not_or.2 ⟨hna, hnr⟩), fun hm' => absurd hm' hm, fun _ _ _ => hcontrol⟩

/-! ### The tick (R105) -/

/-- The events of a step report their own tick. -/
theorem Appends.ticksReported {s t : State} {es : List Event} (h : Appends s t es) : ticksReported es = true := by
  cases h with
  | ticked => simp [Machine.ticksReported]
  | _ => rfl

/-- Settles O33: the events a step appends report their tick, and appending such events keeps the property. -/
theorem everyStepKeepsTicksReported : Obligations.EveryStepKeepsTicksReported := by
  intro s t hs h
  obtain ⟨es, hes, happ⟩ := step_appends h
  rw [hes]
  exact ticksReported_append es happ.ticksReported _ hs

/-- The one step that ticks is the poll that completes a draw wait with `PHASE = BlankPhase`. -/
theorem Appends.tick_iff {s t : State} {es : List Event} (h : Appends s t es) :
    t.tick = true ↔
      s.answered ∧ s.seq = .pollDraw ∧ s.phase = .blankPhase ∧ s.vcount.toNat < s.cfg.blankThreshold.toNat := by
  cases h with
  | ticked ha hs hp hv _ ht => exact iff_of_true ht ⟨ha, hs, hp, hv⟩
  | nothing ha _ _ ht =>
    refine iff_of_false (by simp [ht]) fun ⟨ha', hs, _⟩ => ?_
    cases hs.symm.trans (ha ha')
  | entered _ _ ha _ ht | pressed _ _ _ ha _ ht | illegal _ _ ha _ ht =>
    refine iff_of_false (by simp [ht]) fun ⟨_, hs, _⟩ => ?_
    cases hs.symm.trans ha.2.1
  | polled _ hs _ ht =>
    refine iff_of_false (by simp [ht]) fun ⟨_, hs', _, hv⟩ => ?_
    rcases hs with hs | ⟨-, hv'⟩
    · cases hs.symm.trans hs'
    · omega
  | ended _ hs _ ht =>
    refine iff_of_false (by simp [ht]) fun ⟨_, hs', hp, _⟩ => ?_
    rcases hs with hs | ⟨-, hp'⟩
    · cases hs.symm.trans hs'
    · cases hp.symm.trans hp'
  | keys _ _ hs _ ht =>
    refine iff_of_false (by simp [ht]) fun ⟨_, hs', _⟩ => ?_
    cases hs.symm.trans hs'
  | reset hm _ ht =>
    refine iff_of_false (by simp [ht]) fun ⟨ha, _⟩ => ?_
    cases hm.symm.trans ha.1

/-- The pulse on `tick` stands for the one `Tick` among the events of its step, beside the response 1. -/
theorem Appends.countP_isTick {s t : State} {es : List Event} (h : Appends s t es) :
    es.countP Event.isTick = (if t.tick then 1 else 0) ∧ (t.tick = true → t.rsp = some 1#16) := by
  cases h with
  | ticked _ _ _ _ _ ht hr => exact ⟨by rw [ht]; rfl, fun _ => hr⟩
  | nothing _ _ _ ht | entered _ _ _ _ ht | pressed _ _ _ _ _ ht | illegal _ _ _ _ ht | polled _ _ _ ht | ended _ _ _ ht
  | keys _ _ _ _ ht | reset _ _ ht => exact ⟨by rw [ht]; rfl, by simp [ht]⟩

/-- Settles O39: what the events of a step say of its tick. -/
theorem tickOnlyFromACompletingDrawPoll : Obligations.TickOnlyFromACompletingDrawPoll := by
  intro s t h
  obtain ⟨es, hes, happ⟩ := step_appends h
  obtain ⟨hcount, hrsp⟩ := happ.countP_isTick
  exact ⟨happ.tick_iff, by rw [hes, List.countP_append, hcount], hrsp⟩

end Sys2Proof.Machine
end

section
/-! PROOFS. The input decoder (41_input.md): `ISPRESSED` (R121), `Decode` in closed form (R122), `KeyRead` (R120), and
`READKEYS` from the word on offer to its response, once and twice in a row. -/

namespace Sys2Proof.Machine

/-! ### `ISPRESSED` (R121) -/

/-- The word of `ISPRESSED` as its two operands shifted to their fields (R81, R82). -/
theorem encode_ispressed (a b : Mask10) :
    encode (.ispressed a b) = 0x50000000#32 ||| a.setWidth 32 <<< 16 ||| b.setWidth 32 := rfl

/-- Settles O13: the response is `anyHeld` of the operands, and the word on offer decodes to the command. -/
theorem ispressedAnswersAnyCommonBit : Obligations.IspressedAnswersAnyCommonBit := by
  intro a b v hcommon hdisjoint
  have hv : zextBool (anyHeld a b) = v := by
    rw [← anyHeld_iff] at hcommon hdisjoint
    cases h : anyHeld a b with
    | true => exact (hcommon h).symm
    | false => exact (hdisjoint (by simp [h])).symm
  refine ⟨fun s => ?_, fun s w rest ms hready hw hcmds hsched => ?_⟩
  · rw [exec_eq, accepted, hv]
    rfl
  · have hd : decode w = .ok (.ispressed a b) := (decode_eq_ok_iff ..).2 ((encode_ispressed a b).trans hw.symm)
    rw [step_accept hready hcmds hsched, accept_eq, afterAccept_of_ok hd, accepted, hv]
    refine congrArg Host.Outcome.next ?_
    ext1 <;> simp [State.taken]

/-! ### `Decode` (R122) -/

/-- Inverting the ten named bits after the others are cleared, as inverting the register first (R122). -/
theorem not_and_eq_and_xor {w : Nat} (r m : BitVec w) : ~~~r &&& m = (r &&& m) ^^^ m := by
  ext i hi
  simp only [BitVec.getElem_and, BitVec.getElem_not, BitVec.getElem_xor]
  cases r[i] <;> cases m[i] <;> rfl

/-- Settles O17: the bits are `decodeKeys_getLsbD`; the closed forms are the two polarities. -/
theorem decodeKeysBitByBit : Obligations.DecodeKeysBitByBit := by
  refine fun c r => ⟨decodeKeys_getLsbD c r, fun hlow => ?_, fun hhigh => ?_⟩
  · rw [decodeKeys, if_pos hlow, not_and_eq_and_xor]
  · rw [decodeKeys, if_neg (by simp [hhigh])]

/-! ### `KeyRead` (R120) -/

/-- Settles O18: the acknowledge is `KeyRead`, and its response is fixed by its bits. -/
theorem keyReadStepFollowsTheRule : Obligations.KeyReadStepFollowsTheRule := by
  intro s ms hlive hseq hreq hsched v hbits
  obtain rfl : v = decodeKeys s.cfg s.keyraw :=
    BitVec.eq_of_getLsbD_eq fun i _ => by rw [hbits, decodeKeys_getLsbD]
  rw [step_ack_keyRead hlive hreq hseq hsched, keyRead_eq]
  refine congrArg Host.Outcome.next ?_
  ext1 <;> simp [BusTarget.addr, BusTarget.value]

/-! ### `READKEYS` from the word on offer to its response (R120) -/

/-- A quiet round, then the acknowledge: `KeyRead` on the state with the devices moved on. -/
theorem run_keyRound {ms : List Move} {s : State} {tail : List Move} (h : s.live) (hseq : s.seq = .readKey)
    (hs : s.schedule = ms ++ .ack :: tail) (hq : quietRound ms) :
    run (ms.length + 1) s = .next (keyRead { s with
      schedule := tail, vcount := countAfterAll s.cfg s.vcount ms, keyraw := keysAfterAll s.keyraw ms,
      cmds := s.cmds ++ offeredByAll ms, busReq := false, rsp := none, tick := false }) := by
  obtain ⟨hblock, hquiet⟩ := hq
  obtain ⟨b, r, tk, hreq, hrun⟩ := run_quiet ms s (.ack :: tail) h (by simp [hseq]) hs hquiet
  exact (run_add hrun).trans (run_succ (step_ack_keyRead h (hreq (.inr hblock)) hseq rfl))

/-- Settles O24: `Accept`, then the quiet round that raises the request, and the acknowledge. -/
theorem readkeysRunsToItsResponse : Obligations.ReadkeysRunsToItsResponse := by
  rintro s rest ms tail _ hready hcmds hsched hround rfl
  rw [show 2 + ms.length = 1 + (ms.length + 1) by omega,
    run_add (run_accept hready hcmds hsched (i := .readkeys) (by decide))]
  refine Eq.trans (run_keyRound hready.1 rfl rfl hround) (congrArg Host.Outcome.next ?_)
  rw [keyRead_eq]
  ext1 <;> simp [accepted, BusTarget.addr, BusTarget.value]

/-- Without a key change the keypad register stands still (R148). -/
theorem keysAfterAll_of_no_change (v : Half) {ms : List Move} (h : ∀ v', Move.change v' ∉ ms) :
    keysAfterAll v ms = v := by
  induction ms with
  | nil => rfl
  | cons m ms ih =>
    rw [keysAfterAll, List.foldl_cons, keysAfter_of_ne_change v fun v' hm => h v' (hm ▸ List.mem_cons_self)]
    exact ih fun v' hv => h v' (List.mem_cons_of_mem _ hv)

/-- Settles O25: both commands run to their responses, and the register stands still between the two reads. -/
theorem twoReadkeysWithoutChangeAgree : Obligations.TwoReadkeysWithoutChangeAgree := by
  intro s rest ms ms' tail hready hcmds hsched hround hround' hkeys
  have hfirst := readkeysRunsToItsResponse s _ ms _ _ hready hcmds hsched hround rfl
  have hstill := keysAfterAll_of_no_change (keysAfterAll s.keyraw ms) hkeys
  rw [show 4 + ms.length + ms'.length = (2 + ms.length) + (2 + ms'.length) by omega]
  refine ⟨_, _, hfirst, (run_add hfirst).trans
    (readkeysRunsToItsResponse _ (rest ++ offeredByAll ms) ms' tail _ ⟨hready.1, rfl⟩ rfl rfl hround' hstill.symm),
    by simp, rfl, by simp [List.countP_cons, Event.isRead]⟩

end Sys2Proof.Machine
end

section
/-! PROOFS. The reason a refusal names: each reason is named only of a configuration that fails its condition (R141). -/

namespace Sys2Proof.Machine

/-- The reason found in a configuration, with the condition of R6 or R66 it fails. -/
theorem configRefusal_cases {c : Config} {r : ConfigReason} (h : configRefusal c = some r) :
    (r = .timingMisaligned ∧ c.timingAddr.getLsbD 0 = true)
      ∨ (r = .keypadMisaligned ∧ c.keypadAddr.getLsbD 0 = true)
      ∨ (r = .sameAddress ∧ c.timingAddr = c.keypadAddr)
      ∨ (r = .linesOutOfRange ∧ (c.lines < 2 ∨ 65536 < c.lines))
      ∨ (r = .thresholdOutOfRange ∧ (c.blankThreshold.toNat < 1 ∨ c.lines - 1 < c.blankThreshold.toNat))
      ∨ (r = .unmapped ∧ (c.timingMapped = false ∨ c.keypadMapped = false)) := by
  unfold configRefusal at h
  split_ifs at h with htiming hkeypad hsame hlines hthreshold hmap <;> cases h
  · exact .inl ⟨rfl, htiming⟩
  · exact .inr (.inl ⟨rfl, hkeypad⟩)
  · exact .inr (.inr (.inl ⟨rfl, hsame⟩))
  · exact .inr (.inr (.inr (.inl ⟨rfl, hlines⟩)))
  · exact .inr (.inr (.inr (.inr (.inl ⟨rfl, hthreshold⟩))))
  · exact .inr (.inr (.inr (.inr (.inr ⟨rfl, hmap⟩))))

/-- Settles O48: the refusal is the configuration's, and each reason comes with its failed condition. Only the
threshold's range is written otherwise in the statement than in the check. -/
theorem theRefusalReasonIsTrue : Obligations.TheRefusalReasonIsTrue := by
  intro s r h
  obtain ⟨_, hr, ⟨⟩⟩ := (step_eq_refused_iff s _).1 h
  obtain ⟨rfl, htiming⟩ | ⟨rfl, hkeypad⟩ | ⟨rfl, hsame⟩ | ⟨rfl, hlines⟩ | ⟨rfl, hthreshold⟩ | ⟨rfl, hmap⟩ :=
    configRefusal_cases hr
  · exact htiming
  · exact hkeypad
  · exact hsame
  · exact hlines
  · exact hthreshold.imp (by omega) (by omega)
  · exact hmap

end Sys2Proof.Machine
end

section
/-! PROOFS. Waits that end: the way to the awaited region as a countdown of lines, which ends a wait under the stride bounds
of R165, over a plan of polls and along a fair endless schedule (R172). -/

namespace Sys2Proof.Machine

/-! ### The lines before the awaited region (R104, R147, R165) -/

/-- How many lines the region is long that a sequencer state polls for: the stride bound of R165. -/
def Seq.regionLength (c : Config) : Seq → Nat
  | .pollBlank => c.lines - c.blankThreshold.toNat
  | .pollDraw => c.blankThreshold.toNat
  | .idle => 0
  | .readKey => 0

/-- How many lines are left before the region a sequencer state polls for, 0 inside it. -/
def Seq.linesAhead (c : Config) (v : Half) : Seq → Nat
  | .pollBlank => c.blankThreshold.toNat - v.toNat
  | .pollDraw => if v.toNat < c.blankThreshold.toNat then 0 else c.lines - v.toNat
  | .idle => 0
  | .readKey => 0

section Countdown
variable {c : Config} {v : Half}

theorem Seq.linesAhead_blank_pos_iff : 0 < Seq.pollBlank.linesAhead c v ↔ v.toNat < c.blankThreshold.toNat :=
  Nat.sub_pos_iff_lt

theorem Seq.linesAhead_draw_pos_iff (hv : v.toNat < c.lines) :
    0 < Seq.pollDraw.linesAhead c v ↔ c.blankThreshold.toNat ≤ v.toNat := by
  rw [Seq.linesAhead]
  split <;> omega

/-- The way to the awaited region and the region itself are at most one round of the counter. -/
theorem Seq.linesAhead_add_regionLength_le (hc : configRefusal c = none) {q : Seq} (h : 0 < q.linesAhead c v) :
    q.linesAhead c v + q.regionLength c ≤ c.lines := by
  obtain ⟨-, -, hpos, hle⟩ := valid_bounds hc
  cases q with
  | pollBlank => simp only [Seq.linesAhead, Seq.regionLength] at h ⊢; omega
  | pollDraw =>
    simp only [Seq.linesAhead, Seq.regionLength] at h ⊢
    split at h <;> split <;> omega
  | idle | readKey => simp [Seq.linesAhead] at h

theorem countAfterAll_lt_lines (hc : configRefusal c = none) (hv : v.toNat < c.lines) (ms : List Move) :
    (countAfterAll c v ms).toNat < c.lines := by
  rw [countAfterAll_toNat hc ms v hv]
  exact Nat.mod_lt _ (by omega)

theorem planSamples_lt_lines (hc : configRefusal c = none) {plan : List (List Move)} (hv : v.toNat < c.lines) :
    ∀ x ∈ planSamples c v plan, x.toNat < c.lines := by
  induction plan generalizing v with
  | nil => simp [planSamples]
  | cons ms plan ih =>
    have hw := countAfterAll_lt_lines hc hv ms
    exact List.forall_mem_cons.2 ⟨hw, ih hw⟩

/-- A stride no longer than the awaited region cannot step over it: it counts the lines before it down, to 0 at most. -/
theorem Seq.linesAhead_countAfterAll (hc : configRefusal c = none) (hv : v.toNat < c.lines) {q : Seq}
    (h : 0 < q.linesAhead c v) {ms : List Move} (hms : advances ms ≤ q.regionLength c) :
    q.linesAhead c (countAfterAll c v ms) = q.linesAhead c v - advances ms := by
  obtain ⟨-, -, -, hle⟩ := valid_bounds hc
  have hcount := countAfterAll_toNat hc ms v hv
  cases q with
  | pollBlank =>
    simp only [Seq.linesAhead, Seq.regionLength] at h hms ⊢
    rw [Nat.mod_eq_of_lt (by omega)] at hcount
    omega
  | pollDraw =>
    have hout : ¬ v.toNat < c.blankThreshold.toNat := fun hin => by simp [Seq.linesAhead, hin] at h
    simp only [Seq.linesAhead, Seq.regionLength, if_neg hout] at hms ⊢
    rcases Nat.lt_or_ge (v.toNat + advances ms) c.lines with hbefore | hwraps
    · rw [hcount, Nat.mod_eq_of_lt hbefore, if_neg (by omega)]
      omega
    · rw [hcount, Nat.mod_eq_sub_mod hwraps, Nat.mod_eq_of_lt (by omega), if_pos (by omega)]
      omega
  | idle | readKey => simp [Seq.linesAhead] at h

/-! ### A plan of polls under the stride bound (R165) -/

/-- From outside the awaited region, strides within the bound that add up to the lines before it reach it: some first
polls of the plan read outside it, and the next one inside. -/
theorem exists_polls_to_region (hc : configRefusal c = none) (q : Seq) {plan : List (List Move)} (hv : v.toNat < c.lines)
    (hout : 0 < q.linesAhead c v) (hstride : ∀ ms ∈ plan, advances ms ≤ q.regionLength c)
    (htotal : q.linesAhead c v ≤ advances plan.flatten) :
    ∃ p r ys y, plan = p ++ r ∧ planSamples c v p = ys ++ [y] ∧ (∀ x ∈ ys, 0 < q.linesAhead c x)
      ∧ q.linesAhead c y = 0 ∧ advances p.flatten < q.linesAhead c v + q.regionLength c := by
  induction plan generalizing v with
  | nil => exact absurd htotal (Nat.not_le.2 hout)
  | cons ms plan ih =>
    obtain ⟨hms, hplan⟩ := List.forall_mem_cons.1 hstride
    have hdown := Seq.linesAhead_countAfterAll hc hv hout hms
    rw [List.flatten_cons, advances_append] at htotal
    rcases Nat.eq_zero_or_pos (q.linesAhead c (countAfterAll c v ms)) with hin | hout'
    · exact ⟨[ms], plan, [], _, rfl, rfl, by simp, hin, by simp; omega⟩
    · obtain ⟨p, r, ys, y, rfl, hsamples, hys, hy, hshort⟩ :=
        ih (countAfterAll_lt_lines hc hv ms) hout' hplan (by omega)
      refine ⟨ms :: p, r, _ :: ys, y, rfl, by rw [planSamples, hsamples]; rfl, List.forall_mem_cons.2 ⟨hout', hys⟩, hy, ?_⟩
      rw [List.flatten_cons, advances_append]
      omega

/-- The same with a first poll, wherever it reads: the last poll of the wait comes within `LINES` lines of it. -/
theorem exists_polls_within_lines (hc : configRefusal c = none) (q : Seq) (first : List Move) {others : List (List Move)}
    (hv : v.toNat < c.lines) (hstride : ∀ ms ∈ others, advances ms ≤ q.regionLength c)
    (htotal : c.lines - q.regionLength c ≤ advances others.flatten) :
    ∃ p r ys y, others = p ++ r ∧ planSamples c v (first :: p) = ys ++ [y] ∧ (∀ x ∈ ys, 0 < q.linesAhead c x)
      ∧ q.linesAhead c y = 0 ∧ advances p.flatten < c.lines := by
  have hw := countAfterAll_lt_lines hc hv first
  rcases Nat.eq_zero_or_pos (q.linesAhead c (countAfterAll c v first)) with hin | hout
  · exact ⟨[], others, [], _, rfl, rfl, by simp, hin, by simp; omega⟩
  · have hround := Seq.linesAhead_add_regionLength_le hc hout
    obtain ⟨p, r, ys, y, rfl, hsamples, hys, hy, hshort⟩ := exists_polls_to_region hc q hw hout hstride (by omega)
    exact ⟨p, r, _ :: ys, y, rfl, by rw [planSamples, hsamples]; rfl, List.forall_mem_cons.2 ⟨hout, hys⟩, hy, by omega⟩

end Countdown

/-- A schedule of a first poll and others, cut behind some of the others. -/
theorem pollPlan_cons_append (first : List Move) (p r : List (List Move)) (tail : List Move) :
    pollPlan (first :: (p ++ r)) ++ tail = pollPlan (first :: p) ++ (pollPlan r ++ tail) := by
  rw [← List.cons_append, pollPlan_append, List.append_assoc]

/-- `Poll` in `POLL_BLANK` on a sample in the blanking region ends the blank wait or half (R103). -/
theorem poll_ends_blank {s : State} (hs : s.seq = .pollBlank) (hv : s.cfg.blankThreshold.toNat ≤ s.vcount.toNat) :
    (poll s).phase = .blankPhase ∧ (poll s).seq = (if s.chain then .pollDraw else .idle) ∧ (poll s).chain = false
      ∧ s.cfg.blankThreshold.toNat ≤ (poll s).vcount.toNat := by
  cases hc : s.chain with
  | true => simp [poll_of_blank_chained hs hv hc, hv]
  | false => simp [poll_of_blank_alone hs hv hc, hv]

/-- Settles O29: the polls up to the first in the blanking region are a blank wait, and that poll is its end. -/
theorem blankWaitEndsUnderTheStrideBound : Obligations.BlankWaitEndsUnderTheStrideBound := by
  intro s first others tail hlive hcounter hseq hquiet hstride htotal hsched
  obtain ⟨-, -, -, hle⟩ := valid_bounds hlive.1
  obtain ⟨p, r, ys, y, rfl, hsamples, hys, hy, hshort⟩ := exists_polls_within_lines hlive.1 .pollBlank first hcounter
    hstride (by rw [Seq.regionLength]; omega)
  have hrun := run_wait (first :: p) s (pollPlan r ++ tail) ys y hlive
    (.inl ⟨hseq, fun x hx => Seq.linesAhead_blank_pos_iff.1 (hys x hx)⟩) hsamples (by rw [hsched, pollPlan_cons_append])
    (quietPlan_append (p := first :: p).1 hquiet).1
  exact ⟨p, r, _, rfl, hshort, hrun, poll_ends_blank hseq (Nat.le_of_sub_eq_zero hy)⟩

/-- Settles O30: likewise, up to the first poll in the drawable region. -/
theorem drawWaitEndsUnderTheStrideBound : Obligations.DrawWaitEndsUnderTheStrideBound := by
  intro s first others tail hlive hcounter hseq hquiet hstride htotal hsched
  obtain ⟨p, r, ys, y, rfl, hsamples, hys, hy, hshort⟩ := exists_polls_within_lines hlive.1 .pollDraw first hcounter
    hstride htotal
  have hrange : ∀ x ∈ ys ++ [y], x.toNat < s.cfg.lines := hsamples ▸ planSamples_lt_lines hlive.1 hcounter
  have habove : ∀ x ∈ ys, s.cfg.blankThreshold.toNat ≤ x.toNat := fun x hx =>
    (Seq.linesAhead_draw_pos_iff (hrange x (by simp [hx]))).1 (hys x hx)
  have hin : y.toNat < s.cfg.blankThreshold.toNat :=
    Nat.not_le.1 fun hout => ((Seq.linesAhead_draw_pos_iff (hrange y (by simp))).2 hout).ne' hy
  have hrun := run_drawWait (first :: p) s (pollPlan r ++ tail) ys y hlive hseq habove hin hsamples
    (by rw [hsched, pollPlan_cons_append]) (quietPlan_append (p := first :: p).1 hquiet).1
  exact ⟨p, r, _, rfl, hshort, hrun, rfl, rfl, by simp, hin⟩

/-! ### A command that would go on for ever along a schedule (R172) -/

/-- `u k` is the state a command in progress is in after `k` moves of an endless schedule without a reset, for every `k`:
it gets no response. Without fairness there are such runs (R65, R170). -/
structure NeverEnds (sched : Nat → Move) (s : State) (u : Nat → State) : Prop where
  reached : ∀ k, along sched s k = .next (u k)
  live : ∀ k, (u k).live
  cfg : ∀ k, (u k).cfg = s.cfg
  busy : ∀ k, (u k).seq ≠ .idle
  noReset : ∀ k, sched k ≠ .reset

/-- A command that is never found answered is in progress at every point. -/
theorem exists_neverEnds {sched : Nat → Move} {s : State} (hlive : s.live) (hbusy : s.seq ≠ .idle)
    (hreset : ∀ k, sched k ≠ .reset) (hnever : ∀ k t, along sched s k = .next t → t.seq = .idle → t.rsp = none) :
    ∃ u, NeverEnds sched s u := by
  have hstate : ∀ k, ∃ t, along sched s k = .next t ∧ t.live ∧ t.cfg = s.cfg ∧ t.seq ≠ .idle := by
    intro k
    induction k with
    | zero => exact ⟨_, along_zero sched s, hlive, rfl, hbusy⟩
    | succ k ih =>
      obtain ⟨t, hreached, hlive, hcfg, hbusy⟩ := ih
      obtain ⟨t', hmove, hlive', hcfg', -, hends, -⟩ := runMove_in_progress hlive hbusy hcfg (hreset k)
      have hreached' : along sched s (k + 1) = .next t' := (along_succ hreached hlive.1).trans hmove
      exact ⟨t', hreached', hlive', hcfg', fun hidle => hends.elim (· hidle) (· (hnever _ _ hreached' hidle))⟩
  choose u hreached hlive hcfg hbusy using hstate
  exact ⟨u, hreached, hlive, hcfg, hbusy, hreset⟩

section NeverEnds
variable {sched : Nat → Move} {s : State} {u : Nat → State} (h : NeverEnds sched s u)
include h

theorem NeverEnds.readsAt_iff {k : Nat} {x : State} :
    readsAt sched s k x ↔ x = u k ∧ sched k = .ack ∧ (u k).busReq = true := by
  constructor
  · rintro ⟨hx, hack, hreq⟩
    obtain rfl : u k = x := Host.Outcome.next.inj ((h.reached k).symm.trans hx)
    exact ⟨rfl, hack, hreq⟩
  · rintro ⟨rfl, hack, hreq⟩
    exact ⟨h.reached k, hack, hreq⟩

/-- One move of such a run: the counter follows the Display and the request R64, and only a read moves the sequencer
(R103, R120). -/
theorem NeverEnds.move (k : Nat) :
    (u (k + 1)).vcount = countAfter s.cfg (u k).vcount (sched k)
      ∧ (u (k + 1)).busReq = (if sched k = .block then true else if sched k = .ack then false else (u k).busReq)
      ∧ (¬ readsAt sched s k (u k) → (u (k + 1)).seq = (u k).seq)
      ∧ (readsAt sched s k (u k) → (u k).seq ≠ .readKey
        ∧ ((u k).seq = .pollBlank → (u (k + 1)).seq = .pollDraw
          ∨ ((u (k + 1)).seq = .pollBlank ∧ (u k).vcount.toNat < s.cfg.blankThreshold.toNat))
        ∧ ((u k).seq = .pollDraw → (u (k + 1)).seq = .pollDraw ∧ s.cfg.blankThreshold.toNat ≤ (u k).vcount.toNat)) := by
  obtain ⟨t, hmove, -, -, hcount, -, hgoes⟩ := runMove_in_progress (h.live k) (h.busy k) (h.cfg k) (h.noReset k)
  obtain rfl : u (k + 1) = t := Host.Outcome.next.inj
    ((h.reached (k + 1)).symm.trans ((along_succ (h.reached k) (h.live k).1).trans hmove))
  obtain ⟨hreq, hstays, hread⟩ := hgoes (h.busy (k + 1))
  have hreads : readsAt sched s k (u k) ↔ sched k = .ack ∧ (u k).busReq = true := by simp [h.readsAt_iff]
  rw [hreads]
  exact ⟨hcount, hreq, hstays, hread⟩

/-- The sequencer stays where it is, but for the step on to the draw half. -/
theorem NeverEnds.seq_succ (k : Nat) : (u (k + 1)).seq = (u k).seq ∨ (u (k + 1)).seq = .pollDraw := by
  obtain ⟨-, -, hstays, hread⟩ := h.move k
  by_cases hreads : readsAt sched s k (u k)
  · obtain ⟨hkey, hblank, hdraw⟩ := hread hreads
    cases hq : (u k).seq with
    | idle => exact absurd hq (h.busy k)
    | readKey => exact absurd hq hkey
    | pollBlank => exact (hblank hq).symm.imp_left And.left
    | pollDraw => exact .inr (hdraw hq).1
  · exact .inl (hstays hreads)

/-- In the end the sequencer stays for ever. -/
theorem NeverEnds.seq_settles : ∃ i q, ∀ k, i ≤ k → (u k).seq = q := by
  by_cases hdraw : ∃ i, (u i).seq = .pollDraw
  · obtain ⟨i, hi⟩ := hdraw
    refine ⟨i, .pollDraw, fun k hk => ?_⟩
    induction k, hk using Nat.le_induction with
    | base => exact hi
    | succ k _ ih => exact (h.seq_succ k).elim (·.trans ih) id
  · refine ⟨0, (u 0).seq, fun k _ => ?_⟩
    induction k with
    | zero => rfl
    | succ k ih => exact ((h.seq_succ k).resolve_right fun hk => hdraw ⟨_, hk⟩).trans (ih (by omega))

theorem NeverEnds.vcount_add (i n : Nat) :
    (u (i + n)).vcount = countAfterAll s.cfg (u i).vcount (movesFrom sched i n) := by
  induction n with
  | zero => rfl
  | succ n ih =>
    obtain ⟨hcount, -⟩ := h.move (i + n)
    rw [movesFrom_succ, countAfterAll, List.foldl_append, ← Nat.add_assoc, hcount, ih]
    rfl

theorem NeverEnds.vcount_lt_lines (hrange : s.counterInv) (k : Nat) : (u k).vcount.toNat < s.cfg.lines := by
  have hzero : (u 0).vcount = s.vcount := by
    rw [← Host.Outcome.next.inj ((along_zero sched s).symm.trans (h.reached 0))]
  have hcount := h.vcount_add 0 k
  rw [hzero, Nat.zero_add] at hcount
  rw [hcount]
  exact countAfterAll_lt_lines (h.cfg 0 ▸ (h.live 0).1) hrange _

/-- A read after which the sequencer stays was of a sample before the awaited region (R103). -/
theorem NeverEnds.linesAhead_pos (hrange : s.counterInv) {k : Nat} (hreads : readsAt sched s k (u k))
    (hstays : (u (k + 1)).seq = (u k).seq) : 0 < (u k).seq.linesAhead s.cfg (u k).vcount := by
  obtain ⟨-, -, -, hread⟩ := h.move k
  obtain ⟨hkey, hblank, hdraw⟩ := hread hreads
  cases hq : (u k).seq with
  | idle => exact absurd hq (h.busy k)
  | readKey => exact absurd hq hkey
  | pollBlank =>
    refine Seq.linesAhead_blank_pos_iff.2 ((hblank hq).resolve_left fun hmoves => ?_).2
    cases hmoves.symm.trans (hstays.trans hq)
  | pollDraw => exact (Seq.linesAhead_draw_pos_iff (h.vcount_lt_lines hrange k)).2 (hdraw hq).2

/-! ### What F1 and F3 give: reads without end -/

/-- A request stands as long as the bus does not acknowledge it (R64). -/
theorem NeverEnds.request_stands {i n : Nat} (hreq : (u i).busReq = true)
    (hack : ∀ k, i ≤ k → k < i + n → sched k ≠ .ack) : (u (i + n)).busReq = true := by
  induction n with
  | zero => exact hreq
  | succ n ih =>
    obtain ⟨-, hnext, -⟩ := h.move (i + n)
    rw [← Nat.add_assoc, hnext, if_neg (hack (i + n) (by omega) (by omega)),
      ih fun k hk hlt => hack k hk (by omega), ite_self]

/-- Under F3 the block has its request up again and again. -/
theorem NeverEnds.exists_request (f3 : blockRuns sched s) (k : Nat) : ∃ i, k ≤ i ∧ (u i).busReq = true := by
  obtain ⟨j, hj, hblock | hdisabled⟩ := f3 k
  · obtain ⟨-, hnext, -⟩ := h.move j
    exact ⟨j + 1, by omega, by rw [hnext, if_pos hblock]⟩
  · refine ⟨j, hj, ?_⟩
    by_contra hdown
    exact hdisabled (u j) (h.reached j) ⟨(h.live j).2, .inr ⟨h.busy j, by simpa using hdown⟩⟩

/-- With F1 as well, it reads again and again: the first acknowledge after a request answers it. -/
theorem NeverEnds.exists_read (f1 : requestsAnswered sched s) (f3 : blockRuns sched s) (k : Nat) :
    ∃ i, k ≤ i ∧ readsAt sched s i (u i) := by
  obtain ⟨i, hi, hreq⟩ := h.exists_request f3 k
  have hack : ∃ n, sched (i + n) = .ack := by
    obtain ⟨j, hj, hack⟩ := f1 i (u i) (h.reached i) hreq
    exact ⟨j - i, by rwa [Nat.add_sub_cancel' hj]⟩
  have hstands : (u (i + Nat.find hack)).busReq = true := h.request_stands hreq fun j hj hlt hj' =>
    Nat.find_min hack (show j - i < Nat.find hack by omega) (by rwa [Nat.add_sub_cancel' hj])
  exact ⟨i + Nat.find hack, by omega, h.readsAt_iff.2 ⟨rfl, Nat.find_spec hack, hstands⟩⟩

/-! ### What F2 and F4 give: the countdown from read to read -/

/-- F4 as a bound on the stride between two reads in a row, by the region the first of them awaits. -/
theorem NeverEnds.stride_le (f4 : stridesBounded sched s) (hrange : s.counterInv) {i n : Nat}
    (hi : readsAt sched s i (u i)) (hj : readsAt sched s (i + n + 1) (u (i + n + 1)))
    (hbetween : ∀ k, i < k → k < i + n + 1 → ¬ readsAt sched s k (u k))
    (hout : 0 < (u i).seq.linesAhead s.cfg (u i).vcount) :
    advances (movesFrom sched i (n + 1)) ≤ (u i).seq.regionLength s.cfg := by
  obtain ⟨hblank, hdraw⟩ := f4 i n (u i) (u (i + n + 1)) hi hj fun k x hk hlt hx =>
    hbetween k hk hlt ((h.readsAt_iff.1 hx).1 ▸ hx)
  cases hq : (u i).seq with
  | idle => exact absurd hq (h.busy i)
  | readKey => simp [hq, Seq.linesAhead] at hout
  | pollBlank => exact hblank hq (Seq.linesAhead_blank_pos_iff.1 (hq ▸ hout))
  | pollDraw => exact hdraw hq ((Seq.linesAhead_draw_pos_iff (h.vcount_lt_lines hrange i)).1 (hq ▸ hout))

/-- While the sequencer stays, the lines before the awaited region count down from read to read, however many reads lie
between: none of the strides steps over the region. -/
theorem NeverEnds.linesAhead_read (f4 : stridesBounded sched s) (hrange : s.counterInv) {q : Seq} {a : Nat}
    (hq : ∀ k, a ≤ k → (u k).seq = q) (n : Nat) : ∀ i, a ≤ i → readsAt sched s i (u i) →
    readsAt sched s (i + n) (u (i + n)) →
      q.linesAhead s.cfg (u (i + n)).vcount = q.linesAhead s.cfg (u i).vcount - advances (movesFrom sched i n) := by
  induction n using Nat.strong_induction_on with
  | h n ih =>
    intro i ha hi hj
    by_cases hbetween : ∃ m, 0 < m ∧ m < n ∧ readsAt sched s (i + m) (u (i + m))
    · obtain ⟨m, hm, hmn, hmid⟩ := hbetween
      obtain ⟨l, rfl⟩ := Nat.exists_eq_add_of_le hmn.le
      rw [← Nat.add_assoc] at hj ⊢
      rw [ih l (by omega) (i + m) (by omega) hmid hj, ih m hmn i ha hi hmid, movesFrom_add, advances_append, Nat.sub_sub]
    · cases n with
      | zero => rfl
      | succ n =>
        have hout := h.linesAhead_pos hrange hi ((hq _ (by omega)).trans (hq i ha).symm)
        have hstride := h.stride_le f4 hrange hi hj
          (fun k hk hlt hk' => hbetween ⟨k - i, by omega, by omega, by rwa [Nat.add_sub_cancel' hk.le]⟩) hout
        rw [hq i ha] at hout hstride
        rw [h.vcount_add i (n + 1)]
        exact Seq.linesAhead_countAfterAll (h.cfg i ▸ (h.live i).1) (h.vcount_lt_lines hrange i) hout hstride

end NeverEnds

/-- Under F2 the Display takes any number of steps. -/
theorem exists_advances_ge {sched : Nat → Move} (f2 : displayRuns sched) (i N : Nat) :
    ∃ n, N ≤ advances (movesFrom sched i n) := by
  induction N with
  | zero => exact ⟨0, Nat.zero_le _⟩
  | succ N ih =>
    obtain ⟨n, hn⟩ := ih
    obtain ⟨j, hj, hadvance⟩ := f2 (i + n)
    obtain ⟨m, rfl⟩ := Nat.exists_eq_add_of_le hj
    refine ⟨n + m + 1, ?_⟩
    rw [movesFrom_succ, advances_append, movesFrom_add, advances_append, ← Nat.add_assoc, hadvance,
      show advances [.advance] = 1 from rfl]
    omega

/-- No command goes on for ever on a fair schedule: once the sequencer stays, the lines before the awaited region would
count down to 0 by a later read, which then ends the wait or moves the sequencer on. -/
theorem NeverEnds.false_of_fair {sched : Nat → Move} {s : State} {u : Nat → State} (h : NeverEnds sched s u)
    (hfair : FairSchedule sched s) (hrange : s.counterInv) : False := by
  obtain ⟨f1, f2, f3, f4⟩ := hfair
  obtain ⟨a, q, hq⟩ := h.seq_settles
  obtain ⟨i, hi, hreads⟩ := h.exists_read f1 f3 a
  obtain ⟨n, hn⟩ := exists_advances_ge f2 i (q.linesAhead s.cfg (u i).vcount)
  obtain ⟨j, hj, hreads'⟩ := h.exists_read f1 f3 (i + n)
  obtain ⟨m, rfl⟩ := Nat.exists_eq_add_of_le hj
  have hout := h.linesAhead_pos hrange hreads' ((hq _ (by omega)).trans (hq _ (by omega)).symm)
  rw [hq _ (by omega), Nat.add_assoc] at hout
  rw [Nat.add_assoc] at hreads'
  have hdown := h.linesAhead_read f4 hrange hq (n + m) i hi hreads hreads'
  rw [movesFrom_add, advances_append] at hdown
  omega

/-- Settles O50: a command without such a response would never end. -/
theorem fairScheduleEndsTheCommand : Obligations.FairScheduleEndsTheCommand := by
  intro s sched hlive hrange hbusy hfair hreset
  by_contra hnever
  push Not at hnever
  obtain ⟨u, h⟩ := exists_neverEnds hlive hbusy hreset hnever
  exact h.false_of_fair hfair hrange

end Sys2Proof.Machine
end
